-- ==== Sys2Proof/Word.lean ====
section
/-! DEFINITION. Bytes, 16-bit values and messages (spec/00_scope.md R14, R15; spec/20_memory.md R41). -/

namespace Sys2Proof

/-- A byte is 8 bits (R15). -/
abbrev Byte := BitVec 8

/-- A 16-bit unsigned value: the accumulator, a field of a command frame, a trailer, a sector tag (R14, R65). -/
abbrev Word16 := BitVec 16

/-- A message is a finite sequence of bytes, offset 0 first, of any length, 0 included (R15, R41). -/
abbrev Msg := List Byte

/-- The command word: 40 bits, `op` in 39:32 and `arg` in 31:0 (R60). -/
abbrev CmdWord := BitVec 40

end Sys2Proof
end

