-- ==== Sys2Proof/Machine/Params.lean ====
section
/-! DEFINITION. The parameters of spec/00_scope.md R9 to R12, each under the spec's name. The literals are the
source's and unaudited (R5, D31): UNVERIFIED, log entry 21. They stand in this file, and not in Config.lean, so that a
later check against a device changes one value in one place. -/

namespace Sys2Proof.Params

/-! R9, the checksum. `CRC_REFIN` and `CRC_REFOUT` are false: nothing in the model reverses bits. -/

/-- `CRC_POLY` (R9). -/
def crcPoly : Word16 := 0x1021
/-- `CRC_INIT` (R9; 90_conflicts.md C1: the stated 0 wins over the name). -/
def crcInit : Word16 := 0x0000
/-- `CRC_ROUNDS` (R9). -/
def crcRounds : Nat := 8
/-- `CRC_XOROUT` (R9): no final XOR. -/
def crcXorOut : Word16 := 0x0000

/-! R10, the command frame. -/

/-- `FRAME_LEN` (R10). -/
def frameLen : Nat := 20
/-- `FRAME_COVER`: the leading bytes that the trailer covers (R10). -/
def frameCover : Nat := 18
/-- `FRAME_CRC_OFF` (R10). -/
def frameCrcOff : Nat := 18
/-- `FRAME_RSVD_OFF` (R10). -/
def frameRsvdOff : Nat := 6
/-- `FRAME_RSVD_LEN` (R10). -/
def frameRsvdLen : Nat := 12
/-- `FIELD_A_OFF` (R10). -/
def fieldAOff : Nat := 0
/-- `FIELD_B_OFF` (R10). -/
def fieldBOff : Nat := 2
/-- `FIELD_C_OFF` (R10). -/
def fieldCOff : Nat := 4
/-- `SIZE_OFF` (R10; C3: the 4-byte size of the codec section wins). -/
def sizeOff : Nat := 2
/-- `SIZE_LEN` (R10). -/
def sizeLen : Nat := 4

/-! R11, the code constants. -/

/-- `CMD_START` (R11). -/
def cmdStart : Word16 := 0x0001
/-- `CMD_STOP` (R11): a named constant only; no operation and no frame uses it (R75 d, D14). -/
def cmdStop : Word16 := 0x0002
/-- `CMD_ACK` (R11): no decoder tests for it (R126). -/
def cmdAck : Word16 := 0x0003
/-- `ACK_ACCEPTED` (R11). -/
def ackAccepted : Word16 := 0x0000
/-- `ACK_REJECTED` (R11). -/
def ackRejected : Word16 := 0x0001
/-- `FW_SUCCESS` (R11). -/
def fwSuccess : Word16 := 0x0000
/-- `FW_CRC_ERR` (R11): the receiver reports a bad sector checksum; not `CRC_FAIL` (C5). -/
def fwCrcErr : Word16 := 0x0001
/-- `FW_SECTOR_ERR` (R11). -/
def fwSectorErr : Word16 := 0x0002
/-- `FW_LEN_ERR` (R11). -/
def fwLenErr : Word16 := 0x0003
/-- `CRC_FAIL` (R11): written by a decoder over the response or status field on a mismatch. -/
def crcFail : Word16 := 0xFFFF

/-! R12, chunks and sectors. -/

/-- `CHUNK_HDR_LEN` (R12). -/
def chunkHdrLen : Nat := 3
/-- `TAG_SENTINEL` (R12). -/
def tagSentinel : Word16 := 0xFFFF
/-- `SEQ_LAST` (R12). -/
def seqLast : Byte := 0xFF
/-- `CHUNK_CAP` (R12). -/
def chunkCap : Nat := 512
/-- `TRANSPORT_OVERHEAD` (R12). -/
def transportOverhead : Nat := 3
/-- `CHUNK_PAYLOAD_MAX` (R12; C10: a constant, not the session's own limit). -/
def chunkPayloadMax : Nat := 509
/-- `SECTOR_PAYLOAD` (R12). -/
def sectorPayload : Nat := 4096
/-- `TRAILER_LEN` (R12). -/
def trailerLen : Nat := 2
/-- `SECTOR_MAX` (R12). -/
def sectorMax : Nat := 4098

/-! Bounds of the host's contract. -/

/-- The most chunks a sector may be cut into: ordinals 0 to 254 and the last (R141). -/
def chunksMax : Nat := 256
/-- Image lengths are below this: the size field of a Start Command is 4 bytes (R111, R137). -/
def imageLimit : Nat := 4294967296
/-- The most sectors, so that no true index equals `TAG_SENTINEL` (R137). -/
def sectorsMax : Nat := 65535

end Sys2Proof.Params
end

