-- ==== Sys2Proof/Machine/Operands.lean ====
section
/-! DEFINITION. Operand forms: reading and writing fields of messages, byte order, slices (spec/00_scope.md R14 to R16;
spec/20_memory.md R42), and the byte images of the five wire structures (spec/30_encoding.md R65 to R74). -/

namespace Sys2Proof

/-- The unsigned integer whose little-endian bytes are given (R42): the byte at the lower offset is the less
significant. -/
def leNat : Msg → Nat
  | [] => 0
  | b :: bs => b.toNat + 256 * leNat bs

/-- `M[i..j)`: offsets i up to but not including j (R15). -/
def slice (m : List α) (i j : Nat) : List α := (m.drop i).take (j - i)

/-- `MemRead(o, n)`: the integer held little-endian in the n bytes at offset o (R16). The rules use it only where
`o + n` is at most the length. -/
def memRead (m : Msg) (o n : Nat) : Nat := leNat (slice m o (o + n))

/-- The n-byte little-endian image of v (R16, R42). -/
def leBytes : Nat → Nat → Msg
  | 0, _ => []
  | n + 1, v => BitVec.ofNat 8 v :: leBytes n (v / 256)

/-- `MemWrite(o, n, v)`: the n-byte little-endian image of v at offsets o to o+n-1 (R16). -/
def memWrite (m : Msg) (o n v : Nat) : Msg := m.take o ++ leBytes n v ++ m.drop (o + n)

/-- `le16(v)` = `<v[7:0], v[15:8]>` (R15). -/
def le16 (v : Word16) : Msg := [v.extractLsb' 0 8, v.extractLsb' 8 8]

/-- `le32(v)` (R15). -/
def le32 (v : BitVec 32) : Msg :=
  [v.extractLsb' 0 8, v.extractLsb' 8 8, v.extractLsb' 16 8, v.extractLsb' 24 8]

/-- `zeros(n)` (R15). -/
def zeros (n : Nat) : Msg := List.replicate n 0

/-- A 16-bit field of a frame at offset o (R66). -/
def field16 (m : Msg) (o : Nat) : Word16 := BitVec.ofNat 16 (memRead m o 2)

/-- A 32-bit field of a frame at offset o (R68). -/
def field32 (m : Msg) (o : Nat) : BitVec 32 := BitVec.ofNat 32 (memRead m o 4)

/-- A byte of a frame at offset o (R71). -/
def field8 (m : Msg) (o : Nat) : Byte := BitVec.ofNat 8 (memRead m o 1)

/-- The byte image of a Start Command (R68). -/
def startCmdBytes (size : BitVec 32) (trailer : Word16) : Msg :=
  le16 Params.cmdStart ++ le32 size ++ zeros Params.frameRsvdLen ++ le16 trailer

/-- The byte image of an acknowledgement frame (R65, R69, R70): fields A, B, C, the reserved bytes, the trailer. -/
def ackBytes (a b c : Word16) (reserved : Msg) (trailer : Word16) : Msg :=
  le16 a ++ le16 b ++ le16 c ++ reserved ++ le16 trailer

/-- The byte image of a Firmware Chunk frame (R71). -/
def chunkBytes (tag : Word16) (seq : Byte) (payload : Msg) : Msg := le16 tag ++ [seq] ++ payload

/-- The byte image of a sector (R74). -/
def sectorBytes (payload : Msg) (trailer : Word16) : Msg := payload ++ le16 trailer

end Sys2Proof
end

