-- ==== Sys2Proof/Syntax.lean ====
section
/-! DEFINITION. The instruction set: one constructor of `Instr` per row of spec/opcode_table.json, the nine operations of
the block (spec/30_encoding.md R62) and the five wire structures (R68 to R71, R74). -/

namespace Sys2Proof

/-- The instructions. An operation's scalar operands travel in the command word and stand here; its message operand `MI`
travels beside the word (R27) and is read from the command port when it runs. A wire structure carries its fields. -/
inductive Instr where
  /-- `CRC.INIT` (R98). -/
  | crcInit
  /-- `CRC.BYTE b` (R99). -/
  | crcByte (b : Byte)
  /-- `CRC.SUM` (R100). -/
  | crcSum
  /-- `CRC.APPEND` (R101). -/
  | crcAppend
  /-- `CRC.CHECK` (R102). -/
  | crcCheck
  /-- `ENC.START size` (R111). -/
  | encStart (size : BitVec 32)
  /-- `ENC.CHUNK tag, seq` (R112). -/
  | encChunk (tag : Word16) (seq : Byte)
  /-- `DEC.CACK` (R124). -/
  | decCack
  /-- `DEC.FACK` (R125). -/
  | decFack
  /-- `FRAME.START_CMD` (R68): the size and the trailer; code field and reserved bytes are fixed. -/
  | frameStartCmd (size : BitVec 32) (trailer : Word16)
  /-- `FRAME.CMD_ACK` (R69); the reserved bytes are 12 bytes of any value (R73). -/
  | frameCmdAck (ackCode echoedCmd response : Word16) (reserved : Msg) (trailer : Word16)
  /-- `FRAME.SECTOR_ACK` (R70); the reserved bytes are 12 bytes of any value (R73). -/
  | frameSectorAck (sectorSent status currentSector : Word16) (reserved : Msg) (trailer : Word16)
  /-- `FRAME.CHUNK` (R71): tag, sequence byte and a payload of 1 to 509 bytes. -/
  | frameChunk (tag : Word16) (seq : Byte) (payload : Msg)
  /-- `FRAME.SECTOR` (R74): a payload of 1 to 4096 bytes and its trailer. -/
  | frameSector (payload : Msg) (trailer : Word16)
  deriving DecidableEq, Repr

/-- Which wire structure a byte sequence is meant as. Nothing inside the bytes says so: the channel does (R67, R72). -/
inductive WireKind where
  | startCmd
  | cmdAck
  | sectorAck
  | chunk
  | sector
  deriving DecidableEq, Repr

/-- How an instruction is spelled: an operation as a command word (R60), a wire structure as bytes in wire order (R65 to
R74) of a kind that its channel tells (R72). -/
inductive Spelling where
  | word (cw : CmdWord)
  | wire (kind : WireKind) (bytes : Msg)
  deriving DecidableEq, Repr

end Sys2Proof
end

