-- ==== Sys2Proof/WellFormed.lean ====
section
/-! DEFINITION. Which terms of `Instr` are instructions of the spec: the lengths that a type does not carry
(spec/30_encoding.md R65, R71, R74, R76). A trailer's value is not part of being well formed: a frame with a damaged
trailer is still a frame (R123), and what this side sends is judged in Safety.lean (DESIGN CHOICE, log entry 7). -/

namespace Sys2Proof

/-- The length checks, one line per constructor. -/
def wellFormed : Instr → Bool
  | .crcInit => true
  | .crcByte _ => true
  | .crcSum => true
  | .crcAppend => true
  | .crcCheck => true
  | .encStart _ => true
  | .encChunk _ _ => true
  | .decCack => true
  | .decFack => true
  | .frameStartCmd _ _ => true
  | .frameCmdAck _ _ _ reserved _ => reserved.length == Params.frameRsvdLen
  | .frameSectorAck _ _ _ reserved _ => reserved.length == Params.frameRsvdLen
  | .frameChunk _ _ payload => decide (1 ≤ payload.length ∧ payload.length ≤ Params.chunkPayloadMax)
  | .frameSector payload _ => decide (1 ≤ payload.length ∧ payload.length ≤ Params.sectorPayload)

end Sys2Proof
end

