-- ==== Sys2Proof/Decode.lean ====
section
/-! DEFINITION. Decoding and encoding: command words (spec/30_encoding.md R60 to R64) and wire structures (R65 to R74).
Both decoders are total and reject by name. -/

namespace Sys2Proof

/-! ## Command words -/

/-- The nine operations (R62). -/
inductive Op where
  | crcInit
  | crcByte
  | crcSum
  | crcAppend
  | crcCheck
  | encStart
  | encChunk
  | decCack
  | decFack
  deriving DecidableEq, Repr

/-- The operation codes of R62. -/
def opCode : Op → BitVec 8
  | .crcInit => 0x10
  | .crcByte => 0x11
  | .crcSum => 0x12
  | .crcAppend => 0x13
  | .crcCheck => 0x14
  | .encStart => 0x20
  | .encChunk => 0x21
  | .decCack => 0x30
  | .decFack => 0x31

/-- The operations in the order of R62's table. -/
def opTable : List Op :=
  [.crcInit, .crcByte, .crcSum, .crcAppend, .crcCheck, .encStart, .encChunk, .decCack, .decFack]

/-- The bits of `arg` that must be zero are zero (R63, the last column of its table). -/
def operandClean : Op → BitVec 32 → Bool
  | .crcInit, arg => arg == 0
  | .crcByte, arg => arg.extractLsb' 8 24 == 0
  | .crcSum, arg => arg == 0
  | .crcAppend, arg => arg == 0
  | .crcCheck, arg => arg == 0
  | .encStart, _ => true
  | .encChunk, arg => arg.extractLsb' 24 8 == 0
  | .decCack, arg => arg == 0
  | .decFack, arg => arg == 0

/-- `op` is `CW[39:32]` (R60). -/
def opField (cw : CmdWord) : BitVec 8 := cw.extractLsb' 32 8

/-- `arg` is `CW[31:0]` (R60). -/
def argField (cw : CmdWord) : BitVec 32 := cw.extractLsb' 0 32

/-- The operation that a code spells, if any (R62). -/
def opOf (code : BitVec 8) : Option Op := opTable.find? (fun o => opCode o == code)

/-- Operand assembly from `arg` (R63): nothing is extended, scaled or shifted. -/
def assemble (o : Op) (arg : BitVec 32) : Instr :=
  match o with
  | .crcInit => .crcInit
  | .crcByte => .crcByte (arg.extractLsb' 0 8)
  | .crcSum => .crcSum
  | .crcAppend => .crcAppend
  | .crcCheck => .crcCheck
  | .encStart => .encStart arg
  | .encChunk => .encChunk (arg.extractLsb' 0 16) (arg.extractLsb' 16 8)
  | .decCack => .decCack
  | .decFack => .decFack

/-- Why a command word spells nothing (R64 a and b). -/
inductive WordError where
  /-- `op` is none of the nine codes. -/
  | illegalOp
  /-- A bit of `arg` that must be zero is 1. -/
  | badOperand
  deriving DecidableEq, Repr

/-- Read a command word: the `op` test first, then the must-be-zero test (R64, R174). -/
def decodeWord (cw : CmdWord) : Except WordError Instr :=
  match opOf (opField cw) with
  | none => .error .illegalOp
  | some o => if operandClean o (argField cw) then .ok (assemble o (argField cw)) else .error .badOperand

/-! ## Wire structures -/

/-- Why bytes are no wire structure of the kind they were meant as. -/
inductive WireError where
  /-- The length is not one that the kind has (R67, R76). -/
  | wrongLength
  /-- Field A of a Start Command is not `CMD_START` (R68). -/
  | notStartCommand
  /-- A reserved byte of a Start Command is not zero (R68). -/
  | reservedNonzero
  deriving DecidableEq, Repr

/-- Read the bytes of a frame of a kind that its channel tells (R72). The acknowledgement frames test the length and
nothing else (R67, R126). -/
def decodeWire (kind : WireKind) (m : Msg) : Except WireError Instr :=
  match kind with
  | .startCmd =>
    if m.length ≠ Params.frameLen then .error .wrongLength
    else if field16 m Params.fieldAOff ≠ Params.cmdStart then .error .notStartCommand
    else if slice m Params.frameRsvdOff (Params.frameRsvdOff + Params.frameRsvdLen) ≠ zeros Params.frameRsvdLen then
      .error .reservedNonzero
    else .ok (.frameStartCmd (field32 m Params.sizeOff) (field16 m Params.frameCrcOff))
  | .cmdAck =>
    if m.length ≠ Params.frameLen then .error .wrongLength
    else .ok (.frameCmdAck (field16 m Params.fieldAOff) (field16 m Params.fieldBOff) (field16 m Params.fieldCOff)
      (slice m Params.frameRsvdOff (Params.frameRsvdOff + Params.frameRsvdLen)) (field16 m Params.frameCrcOff))
  | .sectorAck =>
    if m.length ≠ Params.frameLen then .error .wrongLength
    else .ok (.frameSectorAck (field16 m Params.fieldAOff) (field16 m Params.fieldBOff) (field16 m Params.fieldCOff)
      (slice m Params.frameRsvdOff (Params.frameRsvdOff + Params.frameRsvdLen)) (field16 m Params.frameCrcOff))
  | .chunk =>
    if m.length < Params.chunkHdrLen + 1 ∨ Params.chunkHdrLen + Params.chunkPayloadMax < m.length then
      .error .wrongLength
    else .ok (.frameChunk (field16 m 0) (field8 m 2) (m.drop Params.chunkHdrLen))
  | .sector =>
    if m.length < 1 + Params.trailerLen ∨ Params.sectorMax < m.length then .error .wrongLength
    else .ok (.frameSector (m.take (m.length - Params.trailerLen)) (field16 m (m.length - Params.trailerLen)))

/-! ## Both -/

/-- Why a spelling is no instruction. -/
inductive DecodeError where
  | word (e : WordError)
  | wire (e : WireError)
  deriving DecidableEq, Repr

/-- The one decoder over both spellings. -/
def decode : Spelling → Except DecodeError Instr
  | .word cw => (decodeWord cw).mapError .word
  | .wire kind m => (decodeWire kind m).mapError .wire

/-- A command word put together from a code and an argument (R60). -/
def makeWord (o : Op) (arg : BitVec 32) : CmdWord := (opCode o ++ arg).setWidth 40

/-- The spelling of an instruction, from the same tables (R60 to R63, R68 to R71, R74). -/
def encode : Instr → Spelling
  | .crcInit => .word (makeWord .crcInit 0)
  | .crcByte b => .word (makeWord .crcByte (b.setWidth 32))
  | .crcSum => .word (makeWord .crcSum 0)
  | .crcAppend => .word (makeWord .crcAppend 0)
  | .crcCheck => .word (makeWord .crcCheck 0)
  | .encStart size => .word (makeWord .encStart size)
  | .encChunk tag seq => .word (makeWord .encChunk ((seq ++ tag).setWidth 32))
  | .decCack => .word (makeWord .decCack 0)
  | .decFack => .word (makeWord .decFack 0)
  | .frameStartCmd size trailer => .wire .startCmd (startCmdBytes size trailer)
  | .frameCmdAck a b c reserved trailer => .wire .cmdAck (ackBytes a b c reserved trailer)
  | .frameSectorAck a b c reserved trailer => .wire .sectorAck (ackBytes a b c reserved trailer)
  | .frameChunk tag seq payload => .wire .chunk (chunkBytes tag seq payload)
  | .frameSector payload trailer => .wire .sector (sectorBytes payload trailer)

/-- The command word of an operation; a wire structure has none, and gives the word 0, which no rule spells. -/
def commandWord (i : Instr) : CmdWord :=
  match encode i with
  | .word cw => cw
  | .wire _ _ => 0

/-! ## The opcode table's numbering -/

/-- The bytes of a number of n bytes, the most significant byte first: the table writes a wire structure's pattern "in
wire order: offset 0 first, each byte most significant bit first", so as one number offset 0 is the top byte
(log entry 5). -/
def wireBytes : Nat → Nat → Msg
  | 0, _ => []
  | n + 1, w => BitVec.ofNat 8 (w / 256 ^ n) :: wireBytes n w

/-- The kind that a 160-bit table word is read as. The table's three 20-byte rows overlap, and only a channel tells an
acknowledgement's kind (R72), so the word's own field A decides here: a word of FRAME.START_CMD's fixed bits is that row's,
a word with `ack_code` = `CMD_ACK` is FRAME.CMD_ACK's, any other FRAME.SECTOR_ACK's (DESIGN CHOICE, log entry 5). -/
def tableFrameKind (m : Msg) : WireKind :=
  match decodeWire .startCmd m with
  | .ok _ => .startCmd
  | .error _ => if field16 m Params.fieldAOff = Params.cmdAck then .cmdAck else .sectorAck

/-- The spelling that a table word stands for: 40 bits are a command word, 160 bits a command frame, 24 bits a chunk's
header (with the shortest payload, one zero byte, behind it) and 16 bits a sector's trailer (with the shortest payload,
one zero byte, before it). The table has no row of another width. -/
def tableSpelling (nbits w : Nat) : Option Spelling :=
  if nbits = 40 then some (.word (BitVec.ofNat 40 w))
  else if nbits = 160 then some (.wire (tableFrameKind (wireBytes 20 w)) (wireBytes 20 w))
  else if nbits = 24 then some (.wire .chunk (wireBytes 3 w ++ [0]))
  else if nbits = 16 then some (.wire .sector (0 :: wireBytes 2 w))
  else none

/-- The instruction that the decoder reads from a table word, numbered as spec/opcode_table.json numbers its bits. -/
def decodeTableWord (nbits w : Nat) : Option Instr :=
  match tableSpelling nbits w with
  | none => none
  | some sp => (decode sp).toOption

end Sys2Proof
end

