-- ==== Sys2Proof/Machine/Crc.lean ====
section
/-! DEFINITION. The three pure functions of the checksum engine (spec/40_crc.md R90 to R92). -/

namespace Sys2Proof

/-- `crc_round(a)` (R90): the test is on bit 15 before the shift; the width keeps 16 bits. -/
def crcRound (a : Word16) : Word16 :=
  if a.getLsbD 15 then (a <<< 1) ^^^ Params.crcPoly else a <<< 1

/-- n rounds, one after another. -/
def crcRoundsN : Nat → Word16 → Word16
  | 0, a => a
  | n + 1, a => crcRoundsN n (crcRound a)

/-- `crc_byte(a, b)` (R91): the byte goes into bits 15:8, then eight rounds. -/
def crcByte (a : Word16) (b : Byte) : Word16 :=
  crcRoundsN Params.crcRounds (a ^^^ (b.setWidth 16 <<< 8))

/-- Absorb the bytes of a message in offset order, from a given accumulator (R94). -/
def crcFrom (a : Word16) (m : Msg) : Word16 := m.foldl crcByte a

/-- `crc16(M)` (R92): from `CRC_INIT`; the final XOR is with `CRC_XOROUT`, which is 0 (D9). -/
def crc16 (m : Msg) : Word16 := crcFrom Params.crcInit m ^^^ Params.crcXorOut

end Sys2Proof
end

