-- ==== Sys2Proof/Config.lean ====
section
/-! DEFINITION. What an implementation fixes and what the spec leaves open (spec/93_implementation_defined.md). The
source's literals are in Machine/Params.lean. `BUS_BINDING`, `ACK_TIMEOUT` (none) and `MAX_ATTEMPTS` (unbounded) stand at
their defaults and have no definition here (log entries 18 and 22). -/

namespace Sys2Proof

/-- What becomes of a decoded record that arrives when none is awaited, or before the last one is read: kept in arrival
order, dropped, or put in the place of what was there. The spec says nothing of it (U6, N14). -/
inductive Fate where
  | keep
  | drop
  | replace
  deriving DecidableEq, Repr, Inhabited

namespace Config

/-- FREE VALUE (log entry 10): the fate of the n-th record that nobody awaited. It has no body, so no proof can see it. -/
opaque unawaitedFate : Nat → Fate

/-- What a start response that is none of accepted, rejected and the sentinel makes the host do. -/
inductive StartPolicy where
  | accept
  | reject
  | resend
  deriving DecidableEq, Repr

/-- `START_OTHER_POLICY` (R154, U2, D30): OPEN. No value is chosen, and with none the host has no step from there
(log entry 19). -/
def startOtherPolicy : Option StartPolicy := none

/-- `PROGRESS_SINGLE` (R157, U1): the percentage reported for an image of one sector, where the formula divides by
zero. The source's advice, not its reference behaviour (log entry 20). -/
def progressSingle : Nat := 100

end Config

end Sys2Proof
end

