-- ==== Sys2Proof/Machine/State.lean ====
section
/-! DEFINITION. The state of the machine as plain data: the block's registers (spec/10_state.md), its command port, and
the host that the spec takes as its contract (spec/43_host_sequences.md; in scope by spec/00_scope.md R7). INVENTORY.md
lists every field with its rule and reset value. -/

namespace Sys2Proof.Machine

/-! ## What passes the command port -/

/-- The causes of a refusal (R171). -/
inductive RefusalCode where
  /-- Code 1, `ILLEGAL_OP`. -/
  | illegalOp
  /-- Code 2, `BAD_OPERAND`. -/
  | badOperand
  /-- Code 3, `BAD_LENGTH`. -/
  | badLength
  deriving DecidableEq, Repr

/-- What a `done` completion hands over (R28). -/
inductive Output where
  | none
  | bytes (mo : Msg)
  | cack (ackCode echoedCmd response : Word16)
  | fack (sectorSent status currentSector : Word16)
  deriving DecidableEq, Repr

/-- The block's answer to one issue (R28). -/
inductive Completion where
  | done (out : Output)
  | refused (code : RefusalCode)
  deriving DecidableEq, Repr

/-- The two registers, as the host names them in a read (R31). -/
inductive Reg where
  | acc
  | st
  deriving DecidableEq, Repr

/-- A value the host has read (R31). -/
inductive RegValue where
  | acc (v : Word16)
  | st (v : BitVec 8)
  deriving DecidableEq, Repr

/-! ## What happens to the machine from outside -/

/-- One event. The list of events is chosen outside the machine, so every interleaving of the host's contexts is some
list (R51, R181). -/
inductive Input where
  /-- Some context presents the issue `(CW, MI)` (R27); the block takes it as one step (R49). -/
  | issue (cw : CmdWord) (mi : Msg)
  /-- A frame on the wire: an acknowledgement payload arrives on the channel that its kind names (R72, R145), or the host
  gives a frame of an outbound kind to the transport (R142, R144), or a sector to the Chunker (R140, R142). -/
  | wire (kind : WireKind) (bytes : Msg)
  /-- The Transfer State Machine's context gets its turn and makes one move (R149 to R160, R163). -/
  | turn
  /-- The caller opens a session for an image over a transport with a unit size (R137, R139, R148). -/
  | openSession (image : Msg) (unitSize : Nat)
  /-- Disconnection or transport-level exception (R161), one event for both (log entry 32). -/
  | disconnect
  /-- The host reads a register (R31). -/
  | read (r : Reg)
  /-- The one reset, applied from outside between two operations (R190, R191). -/
  | reset
  deriving DecidableEq, Repr

/-! ## The host -/

/-- The states of the Transfer State Machine (R149); the cursor is a field of the session. -/
inductive Phase where
  | init
  | awaitingStartAck
  | uploadingSector
  | awaitingSectorAck
  | complete
  | aborted
  deriving DecidableEq, Repr

/-- `TransferSession` (R148). -/
structure Session where
  /-- The firmware image, immutable (R137). -/
  image : Msg
  /-- The sectors produced so far, in order (R137). -/
  sectors : List Msg
  /-- The current sector cursor (R148, R149). -/
  cursor : Nat
  /-- The state machine's state (R149). -/
  phase : Phase
  deriving DecidableEq, Repr

/-- A chunk still to be encoded and written (R140). -/
structure ChunkJob where
  tag : Word16
  seq : Byte
  payload : Msg
  deriving DecidableEq, Repr

/-- A decoded Command Acknowledgement, as it waits in its queue (R28, R145). -/
structure CackRecord where
  ackCode : Word16
  echoedCmd : Word16
  response : Word16
  deriving DecidableEq, Repr

/-- A decoded Sector Acknowledgement, as it waits in its queue (R28, R145). -/
structure FackRecord where
  sectorSent : Word16
  status : Word16
  currentSector : Word16
  deriving DecidableEq, Repr

/-- Where a transport write goes. The source gives no identifiers (N16); it names a firmware attribute (R142), and that
the Start Command goes to another one is log entry 25. -/
inductive Endpoint where
  | command
  | firmware
  deriving DecidableEq, Repr

/-- One call of the transport's `write(attribute_id, bytes, expect_response)` (R143). -/
structure WireWrite where
  endpoint : Endpoint
  bytes : Msg
  expectResponse : Bool
  deriving DecidableEq, Repr

/-- What the state machine reports to the operator. -/
inductive Report where
  /-- Progress in percent, the fraction `num / den` (R156, R157). -/
  | progress (num den : Nat)
  /-- "start rejected" (R152). -/
  | startRejected
  /-- "unknown error" (R160). -/
  | unknownError
  /-- The underlying transport error (R161). -/
  | transportError
  deriving DecidableEq, Repr

/-! ## The state -/

/-- The whole state. -/
structure State where
  /-- `ACC` (R21). -/
  acc : Word16
  /-- `ST.EQ` (R23). -/
  stEq : Bool
  /-- `ST.ERR` (R24). -/
  stErr : Bool
  /-- `ST.ECODE` (R25). -/
  stEcode : BitVec 3
  /-- The events not yet taken, the next one first (R27, R49, R51, R207). -/
  inputs : List Input
  /-- The completions given so far, in issue order (R28, R50). -/
  completions : List Completion
  /-- The values the host has read, in order (R31). -/
  reads : List RegValue
  /-- The session, if one was created (R148). -/
  session : Option Session
  /-- The chunks of the sector in flight that are not yet written (R140, R142). -/
  jobs : List ChunkJob
  /-- `negotiated_unit_size` (R139, R143). -/
  unitSize : Nat
  /-- The command-ack channel's queue, oldest first (R145, R146). -/
  cmdQueue : List CackRecord
  /-- The firmware-ack channel's queue, oldest first (R145, R146). -/
  fwQueue : List FackRecord
  /-- The host has subscribed to the command-ack channel (R143, R192). -/
  subCmd : Bool
  /-- The host has subscribed to the firmware-ack channel (R143, R192). -/
  subFw : Bool
  /-- `disconnect()` was called, or the link was lost (R143, R161). -/
  linkClosed : Bool
  /-- The transport writes made so far, in order (R142 to R144). -/
  writes : List WireWrite
  /-- What was reported to the operator, in order (R152, R156, R160, R161). -/
  reports : List Report
  /-- The model's own: how many free values were used (log entry 10). -/
  freeIdx : Nat
  deriving DecidableEq, Repr

/-- The errors that the document names and that end a run: both are the host's, none the block's (log entry 9). -/
inductive Fault where
  /-- Raised by opening a session with a zero-length image, "a caller-level error (rejected before segmentation)" (R137,
  U13). Safe: nothing is said of a run after it. -/
  | emptyImage
  /-- Raised by opening a session, or handing a sector to the Chunker, over a transport whose unit size gives no payload,
  "a configuration error" (R139, U12). Safe: nothing is said of a run after it. -/
  | unitTooSmall
  deriving DecidableEq, Repr

/-- Where the machine has no step because no rule gives one. -/
inductive Refusal where
  /-- Raised by an arm of `exec` whose instruction has no meaning yet. Safe. -/
  | notModelled (mnemonic : String)
  /-- Raised by handing the Chunker a sector that needs more than 256 chunks: "it refuses" (R141, U3). Safe. -/
  | tooManyChunks
  /-- Raised by opening a session for an image that the size field or the sector index cannot carry (R137, U5). Safe. -/
  | imageTooLarge
  /-- Raised by the state machine on a start response the document does not name, while `START_OTHER_POLICY` has no
  value (R154, U2). Safe. -/
  | startOtherResponse
  /-- Raised by the state machine on a redirect to a sector that does not exist (R159, U4). Safe. -/
  | targetOutOfRange
  /-- Raised by opening a session while one is live: "no concurrent transfers" (R148, log entry 12). Safe. -/
  | sessionLive
  /-- Raised by giving the transport, or the Chunker, bytes that are no frame of an outbound kind (R68, R71, R74, log
  entry 24). Safe. -/
  | notAFrame (kind : WireKind)
  deriving DecidableEq, Repr

/-- The outcome of a step or of an instruction. -/
abbrev Result := Host.Outcome State Fault Refusal

/-- The machine right after reset. `ACC` and `ST` are as R190 says; every other field is the host's or the port's, for
which the spec gives no reset value, and is a DESIGN CHOICE of log entry 11. -/
def State.reset : State where
  acc := 0x0000
  stEq := false
  stErr := false
  stEcode := 0
  inputs := []
  completions := []
  reads := []
  session := none
  jobs := []
  unitSize := 23
  cmdQueue := []
  fwQueue := []
  subCmd := false
  subFw := false
  linkClosed := false
  writes := []
  reports := []
  freeIdx := 0

end Sys2Proof.Machine
end

