-- ==== Sys2Proof/Machine/Flags.lean ====
section
/-! DEFINITION. The status register `ST`: its layout, and what writes each of its fields (spec/10_state.md R22 to R25;
spec/60_exceptions.md R172, R173). -/

namespace Sys2Proof.Machine

/-- The 3-bit value of a refusal code (R173). -/
def refusalValue : RefusalCode → BitVec 3
  | .illegalOp => 1
  | .badOperand => 2
  | .badLength => 3

/-- `ST` as one byte (R22): `EQ` in bit 0, `ERR` in bit 1, `ECODE` in bits 4:2, bits 7:5 read as 0. -/
def stByte (eq err : Bool) (ecode : BitVec 3) : BitVec 8 :=
  (0 : BitVec 3) ++ (ecode ++ (BitVec.ofBool err ++ BitVec.ofBool eq : BitVec 2) : BitVec 5)

/-- The value a host read of `ACC` returns (R31). -/
def readAcc (s : State) : Word16 := s.acc

/-- The value a host read of `ST` returns (R31). -/
def readSt (s : State) : BitVec 8 := stByte s.stEq s.stErr s.stEcode

/-- The trailer comparison (R102, R123): the checksum of a body against a received trailer. -/
def trailerMatches (body : Msg) (trailer : Word16) : Bool := crc16 body == trailer

/-- Write `ST.EQ` (R23). -/
def writeEq (v : Bool) (s : State) : State := { s with stEq := v }

/-- What a refusal records (R24, R25, R172): the first one sets `ERR` and writes its code, later ones change nothing. -/
def recordRefusal (code : RefusalCode) (s : State) : State :=
  { s with stErr := true, stEcode := if s.stErr then s.stEcode else refusalValue code }

end Sys2Proof.Machine
end

