-- ==== Sys2Proof/Machine/Ops.lean ====
section
/-! DEFINITION. The shared operations: taking an issue and answering it, refusing it (the block's one exception-like
mechanism, spec/60_exceptions.md R172; there is no return from it, R178), writing to the transport, and the queues of
decoded records. -/

namespace Sys2Proof.Machine

/-! ## The command port -/

/-- `MI`, the input message of the issue at the head of the port (R27, R40); empty when no issue stands there. -/
def inputMessage (s : State) : Msg :=
  match s.inputs with
  | .issue _ m :: _ => m
  | _ => []

/-- The event at the head is taken. -/
def takeInput (s : State) : State := { s with inputs := s.inputs.tail }

/-- A host context presents an issue in place of the event that made it do so. -/
def present (i : Instr) (m : Msg) (s : State) : State :=
  { s with inputs := .issue (commandWord i) m :: s.inputs.tail }

/-- `emit X` (R16, R28): the issue is taken and completes as `done`. -/
def emit (out : Output) (s : State) : State :=
  { takeInput s with completions := s.completions ++ [.done out] }

/-- `raise Refused(code)` (R16, R172): the operation is not performed, the completion is `refused(code)`, and `ERR` and
`ECODE` record the first refusal. Nothing else happens (R177). -/
def refuse (code : RefusalCode) (s : State) : State :=
  { recordRefusal code (takeInput s) with completions := s.completions ++ [.refused code] }

/-- The length test (R61, R64 c): outside the accepted range the issue is refused with code 3, else the operation runs. -/
def withLength (accepts : Nat → Bool) (run : State → State) (s : State) : State :=
  if accepts (inputMessage s).length then run s else refuse .badLength s

/-- The output message of the completion given last, if it handed one over (R28). -/
def lastBytes (s : State) : Option Msg :=
  match s.completions.getLast? with
  | some (.done (.bytes m)) => some m
  | _ => none

/-! ## Accepted message lengths (R61) -/

/-- The operation takes no message. -/
def acceptsNone (n : Nat) : Bool := n == 0
/-- Any length, 0 included. -/
def acceptsAny (_ : Nat) : Bool := true
/-- `CRC.CHECK`: 2 or more. -/
def acceptsTrailer (n : Nat) : Bool := decide (Params.trailerLen ≤ n)
/-- `ENC.CHUNK`: 1 to `CHUNK_PAYLOAD_MAX`. -/
def acceptsPayload (n : Nat) : Bool := decide (1 ≤ n ∧ n ≤ Params.chunkPayloadMax)

/-! ## What a decode reads from a frame (R123) -/

/-- `k == r`: the checksum of the first 18 bytes against the little-endian value of the last two. -/
def frameMatches (m : Msg) : Bool :=
  trailerMatches (slice m 0 Params.frameCover) (field16 m Params.frameCrcOff)

/-- The override: a field that a mismatch replaces by `CRC_FAIL`. -/
def overridden (ok : Bool) (field : Word16) : Word16 := if ok then field else Params.crcFail

/-- The record that `DEC.CACK` delivers: field C is the response (R120, R124). -/
def cackRecord (m : Msg) : CackRecord where
  ackCode := field16 m Params.fieldAOff
  echoedCmd := field16 m Params.fieldBOff
  response := overridden (frameMatches m) (field16 m Params.fieldCOff)

/-- The record that `DEC.FACK` delivers: field B is the status (R120, R125). -/
def fackRecord (m : Msg) : FackRecord where
  sectorSent := field16 m Params.fieldAOff
  status := overridden (frameMatches m) (field16 m Params.fieldBOff)
  currentSector := field16 m Params.fieldCOff

/-! ## The transport -/

/-- `write(attribute_id, bytes, expect_response)` (R143). -/
def transportWrite (e : Endpoint) (bytes : Msg) (expectResponse : Bool) (s : State) : State :=
  { s with writes := s.writes ++ [{ endpoint := e, bytes := bytes, expectResponse := expectResponse }] }

/-- `disconnect()`, "close the transport" (R143, R156, R160, R162): no notification arrives after it (log entry 16). -/
def closeTransport (s : State) : State := { s with linkClosed := true, subCmd := false, subFw := false }

/-- A report to the operator. -/
def report (r : Report) (s : State) : State := { s with reports := s.reports ++ [r] }

/-! ## The queues of decoded records (R145, R146) -/

/-- The session is in the given phase. -/
def inPhase (p : Phase) (s : State) : Bool :=
  s.session.any (fun S => S.phase == p)

/-- A Command Acknowledgement is awaited: the state machine is blocked for one and none waits unread (R146). -/
def awaitsCack (s : State) : Bool := inPhase .awaitingStartAck s && s.cmdQueue.isEmpty

/-- A Sector Acknowledgement is awaited, likewise (R146, R155). -/
def awaitsFack (s : State) : Bool := inPhase .awaitingSectorAck s && s.fwQueue.isEmpty

/-- What a fate does to a queue. -/
def applyFate (f : Fate) (q : List α) (r : α) : List α :=
  match f with
  | .keep => q ++ [r]
  | .drop => q
  | .replace => [r]

/-- A Command Acknowledgement's record goes to its queue: in arrival order when it is the one awaited (R145, R146), else
its fate is a free value (U6, log entry 10). -/
def deliverCack (r : CackRecord) (s : State) : State :=
  { s with
    cmdQueue := if awaitsCack s then s.cmdQueue ++ [r] else applyFate (Config.unawaitedFate s.freeIdx) s.cmdQueue r
    freeIdx := if awaitsCack s then s.freeIdx else s.freeIdx + 1 }

/-- A Sector Acknowledgement's record goes to its queue, likewise. -/
def deliverFack (r : FackRecord) (s : State) : State :=
  { s with
    fwQueue := if awaitsFack s then s.fwQueue ++ [r] else applyFate (Config.unawaitedFate s.freeIdx) s.fwQueue r
    freeIdx := if awaitsFack s then s.freeIdx else s.freeIdx + 1 }

/-- A host read of a register (R31): the value is handed over and nothing else changes. -/
def readRegister (r : Reg) (s : State) : State :=
  match r with
  | .acc => { takeInput s with reads := s.reads ++ [.acc (readAcc s)] }
  | .st => { takeInput s with reads := s.reads ++ [.st (readSt s)] }

/-- The block's reset (R190): `ACC` and `ST` take their reset values; the host's state is not the block's and stays. -/
def resetBlock (s : State) : State :=
  { takeInput s with acc := 0x0000, stEq := false, stErr := false, stEcode := 0 }

end Sys2Proof.Machine
end

