-- ==== Sys2Proof/Machine/Checksum.lean ====
section
/-! DEFINITION. The checksum family: `CRC.INIT`, `CRC.BYTE`, `CRC.SUM`, `CRC.APPEND`, `CRC.CHECK` (spec/40_crc.md R98 to
R102). -/

namespace Sys2Proof.Machine

/-- `CRC.INIT` as an operation of the block (R98). -/
def crcInitOp (s : State) : State :=
  withLength acceptsNone (fun s => emit .none { s with acc := Params.crcInit }) s

/-- `CRC.BYTE b` as an operation of the block (R99). -/
def crcByteOp (b : Byte) (s : State) : State :=
  withLength acceptsNone (fun s => emit .none { s with acc := crcByte s.acc b }) s

/-- `CRC.SUM` as an operation of the block (R100). -/
def crcSumOp (s : State) : State :=
  withLength acceptsAny (fun s => emit .none { s with acc := crc16 (inputMessage s) }) s

/-- `CRC.APPEND` as an operation of the block (R101): a private accumulator, `ACC` not touched. -/
def crcAppendOp (s : State) : State :=
  withLength acceptsAny (fun s => emit (.bytes (inputMessage s ++ le16 (crc16 (inputMessage s)))) s) s

/-- `CRC.CHECK` as an operation of the block (R102): recompute and compare, never a zero residue (R197). -/
def crcCheckOp (s : State) : State :=
  withLength acceptsTrailer (fun s =>
    let m := inputMessage s
    let n := m.length
    emit .none (writeEq (trailerMatches (slice m 0 (n - Params.trailerLen)) (field16 m (n - Params.trailerLen))) s)) s

/-- The meaning of `CRC.INIT` (R98). -/
def execCrcInit (s : State) : Result := .next (crcInitOp s)

/-- The meaning of `CRC.BYTE b` (R99). -/
def execCrcByte (b : Byte) (s : State) : Result := .next (crcByteOp b s)

/-- The meaning of `CRC.SUM` (R100). -/
def execCrcSum (s : State) : Result := .next (crcSumOp s)

/-- The meaning of `CRC.APPEND` (R101). -/
def execCrcAppend (s : State) : Result := .next (crcAppendOp s)

/-- The meaning of `CRC.CHECK` (R102). -/
def execCrcCheck (s : State) : Result := .next (crcCheckOp s)

end Sys2Proof.Machine
end

