-- ==== Sys2Proof/Machine/Decoder.lean ====
section
/-! DEFINITION. The decode family: `DEC.CACK`, `DEC.FACK` (spec/42_decode.md R120 to R127). The length test comes first
and a wrong length is a drop, not a refusal (R121, R122); nothing but length and checksum is tested (R126). -/

namespace Sys2Proof.Machine

/-- `DEC.CACK` as an operation of the block (R124). -/
def decCackOp (s : State) : State :=
  withLength acceptsAny (fun s =>
    let m := inputMessage s
    if m.length ≠ Params.frameLen then emit .none s
    else
      let r := cackRecord m
      emit (.cack r.ackCode r.echoedCmd r.response) (writeEq (frameMatches m) s)) s

/-- `DEC.FACK` as an operation of the block (R125). -/
def decFackOp (s : State) : State :=
  withLength acceptsAny (fun s =>
    let m := inputMessage s
    if m.length ≠ Params.frameLen then emit .none s
    else
      let r := fackRecord m
      emit (.fack r.sectorSent r.status r.currentSector) (writeEq (frameMatches m) s)) s

/-- The meaning of `DEC.CACK` (R124). -/
def execDecCack (s : State) : Result := .next (decCackOp s)

/-- The meaning of `DEC.FACK` (R125). -/
def execDecFack (s : State) : Result := .next (decFackOp s)

end Sys2Proof.Machine
end

