-- ==== Sys2Proof/Machine/Encoder.lean ====
section
/-! DEFINITION. The encode family: `ENC.START`, `ENC.CHUNK` (spec/41_encode.md R110 to R113). -/

namespace Sys2Proof.Machine

/-- The first 18 bytes of a Start Command, then two zero bytes, by the rule's own writes (R111). -/
def startBody (size : BitVec 32) : Msg :=
  memWrite (memWrite (zeros Params.frameLen) Params.fieldAOff 2 Params.cmdStart.toNat)
    Params.sizeOff Params.sizeLen size.toNat

/-- The 20 bytes that `ENC.START size` hands over (R111). -/
def startFrame (size : BitVec 32) : Msg :=
  memWrite (startBody size) Params.frameCrcOff 2 (crc16 (slice (startBody size) 0 Params.frameCover)).toNat

/-- `ENC.START size` as an operation of the block (R111). -/
def encStartOp (size : BitVec 32) (s : State) : State :=
  withLength acceptsNone (fun s => emit (.bytes (startFrame size)) s) s

/-- `ENC.CHUNK tag, seq` as an operation of the block (R112): tag and sequence byte are encoded as given. -/
def encChunkOp (tag : Word16) (seq : Byte) (s : State) : State :=
  withLength acceptsPayload (fun s => emit (.bytes (le16 tag ++ [seq] ++ inputMessage s)) s) s

/-- The meaning of `ENC.START size` (R111). -/
def execEncStart (size : BitVec 32) (s : State) : Result := .next (encStartOp size s)

/-- The meaning of `ENC.CHUNK tag, seq` (R112). -/
def execEncChunk (tag : Word16) (seq : Byte) (s : State) : Result := .next (encChunkOp tag seq s)

end Sys2Proof.Machine
end

