-- ==== Sys2Proof/Machine/Sequences.lean ====
section
/-! DEFINITION. The host's pseudo-operations as functions of their arguments (spec/43_host_sequences.md R135 to R141). The
host's arithmetic is over unbounded integers (R135). -/

namespace Sys2Proof.Machine

/-- `ceil(a / b)` for `b` at least 1 (R14). -/
def ceilDiv (a b : Nat) : Nat := (a + b - 1) / b

/-- Piece q of a sequence cut into pieces of m, the last one shorter when it must be: `xs[m*q .. min(m*(q+1), len(xs)))`,
what both `segment` and `chunk` cut (R137, R140). -/
def piece (m : Nat) (xs : List α) (q : Nat) : List α := slice xs (m * q) (min (m * (q + 1)) xs.length)

/-- A window and its trailer: the output of `CRC.APPEND` (R101, R137). -/
def withTrailer (w : Msg) : Msg := w ++ le16 (crc16 w)

/-- N, the number of sectors of an image (R137). -/
def sectorCount (image : Msg) : Nat := ceilDiv image.length Params.sectorPayload

/-- Window j of an image (R137). -/
def window (image : Msg) (j : Nat) : Msg := piece Params.sectorPayload image j

/-- `segment(image)` (R137). -/
def segmentImage (image : Msg) : List Msg :=
  (List.range (sectorCount image)).map (fun j => withTrailer (window image j))

/-- `sector_tag(j, sector)` (R138; C7: the test is on the size, never on the position). -/
def sectorTag (j : Nat) (sector : Msg) : Word16 :=
  if sector.length < Params.sectorMax then Params.tagSentinel else BitVec.ofNat 16 j

/-- `max_chunk_payload(unit)` over the integers (R139); below 1 it is a configuration error. -/
def maxChunkPayload (unitSize : Nat) : Int :=
  min (Params.chunkCap : Int) ((unitSize : Int) - (Params.transportOverhead : Int)) - (Params.chunkHdrLen : Int)

/-- C, the number of chunks of a sector of L bytes (R140). -/
def chunkCount (len m : Nat) : Nat := ceilDiv len m

/-- The sequence byte of chunk q of C (R140): the ordinal, or `SEQ_LAST` on the last. -/
def chunkSeq (q c : Nat) : Byte := if q + 1 = c then Params.seqLast else BitVec.ofNat 8 q

/-- The payload of chunk q (R140). -/
def chunkPayload (sector : Msg) (m q : Nat) : Msg := piece m sector q

/-- The frames of `chunk(sector, m, tag)` (R140), as the `ENC.CHUNK` operations produce them. -/
def chunkFrames (sector : Msg) (m : Nat) (tag : Word16) : List Msg :=
  (List.range (chunkCount sector.length m)).map (fun q =>
    chunkBytes tag (chunkSeq q (chunkCount sector.length m)) (chunkPayload sector m q))

end Sys2Proof.Machine
end

