-- ==== Sys2Proof/Machine/Transfer.lean ====
section
/-! DEFINITION. The host around the block, as the contract the spec gives it (spec/43_host_sequences.md): the Chunker's
queue of chunks to send, the Notification Dispatcher, and the Transfer State Machine. Each move holds at most one issue
to the block, so that the two contexts interleave at operation boundaries (R163, R181; log entry 13). -/

namespace Sys2Proof.Machine

/-! ## Sending a sector (R140 to R142) -/

/-- The chunks of a sector, as the operations still to be issued (R140). -/
def chunkJobs (sector : Msg) (m : Nat) (tag : Word16) : List ChunkJob :=
  (List.range (chunkCount sector.length m)).map (fun q =>
    { tag := tag, seq := chunkSeq q (chunkCount sector.length m), payload := chunkPayload sector m q })

/-- `send_sector(j)` (R142): tag the sector and hand its chunks to the Chunker; each is issued and written at a turn of
its own (log entry 14). A unit size that gives no payload is a configuration error (R139), and more than 256 chunks are
refused (R141). -/
def sendSector (j : Nat) (sector : Msg) (s : State) : Result :=
  if maxChunkPayload s.unitSize < 1 then .fault .unitTooSmall
  else if Params.chunksMax < chunkCount sector.length (maxChunkPayload s.unitSize).toNat then .refused .tooManyChunks
  else .next { s with
    jobs := s.jobs ++ chunkJobs sector (maxChunkPayload s.unitSize).toNat (sectorTag j sector) }

/-- A session whose last chunk was written waits for the acknowledgement (R155). -/
def uploaded (S : Session) : Session :=
  if S.phase = .uploadingSector then { S with phase := .awaitingSectorAck } else S

/-- The last chunk of the sector is written (R155). -/
def sectorSent (s : State) : State := { s with session := s.session.map uploaded }

/-- Give the bytes that the last completion handed over to the transport. -/
def writeLast (e : Endpoint) (expectResponse : Bool) (s : State) : State :=
  { s with writes := s.writes ++ (lastBytes s).toList.map (fun m => WireWrite.mk e m expectResponse) }

/-- One chunk: one `ENC.CHUNK` and one write with `expect_response = false` (R140, R142, R144). -/
def sendChunk (job : ChunkJob) (rest : List ChunkJob) (s : State) : State :=
  let s1 := encChunkOp job.tag job.seq (present (.encChunk job.tag job.seq) job.payload s)
  let s2 := writeLast .firmware false { s1 with jobs := rest }
  if rest = [] then sectorSent s2 else s2

/-! ## The Notification Dispatcher (R145 to R147) -/

/-- A payload from the command-ack channel: issued as `DEC.CACK`; a record is delivered, a dropped payload delivers
nothing (R122, R145, R147). A notification before the subscription is lost (R192). -/
def dispatchCack (m : Msg) (s : State) : State :=
  if s.subCmd then
    let s1 := decCackOp (present .decCack m s)
    if m.length = Params.frameLen then deliverCack (cackRecord m) s1 else s1
  else takeInput s

/-- A payload from the firmware-ack channel: issued as `DEC.FACK`, likewise. -/
def dispatchFack (m : Msg) (s : State) : State :=
  if s.subFw then
    let s1 := decFackOp (present .decFack m s)
    if m.length = Params.frameLen then deliverFack (fackRecord m) s1 else s1
  else takeInput s

/-! ## The Transfer State Machine (R148 to R162) -/

/-- A session is live until it is in one of the final states (R149). -/
def sessionLive (s : State) : Bool :=
  s.session.any (fun S => !(S.phase == .complete || S.phase == .aborted))

/-- The caller opens a session: the image and the unit size are judged (R137, R139, U5), the host subscribes to both
channels before anything is sent (R192), and the state machine starts in `INIT` (R149). One session at a time (R148,
log entry 12). DESIGN CHOICE: where two errors hold at once, the first in the order of the tests here names the stop (log
entry 31). DESIGN CHOICE: both subscriptions are made here, before the image is segmented (log entry 33). -/
def openSession (image : Msg) (unitSize : Nat) (s : State) : Result :=
  if sessionLive s then .refused .sessionLive
  else if image = [] then .fault .emptyImage
  else if maxChunkPayload unitSize < 1 then .fault .unitTooSmall
  else if Params.imageLimit ≤ image.length ∨ Params.sectorsMax < sectorCount image then .refused .imageTooLarge
  else .next { takeInput s with
    session := some { image := image, sectors := [], cursor := 0, phase := .init }
    unitSize := unitSize, jobs := [], cmdQueue := [], fwQueue := []
    subCmd := true, subFw := true, linkClosed := false }

/-- `→ UPLOADING_SECTOR(i)` (R153, R155, R156, R158, R159): the cursor is set and the sector handed to the Chunker. A
sector that does not exist is refused (R159, U4). -/
def uploadSector (i : Nat) (S : Session) (s : State) : Result :=
  match S.sectors[i]? with
  | none => .refused .targetOutOfRange
  | some sector => sendSector i sector { s with session := some { S with cursor := i, phase := .uploadingSector } }

/-- `→ ABORTED` with a report, the transport closed (R152, R160, R162 b; log entry 15). -/
def abortSession (why : Report) (S : Session) (s : State) : State :=
  closeTransport (report why { s with session := some { S with phase := .aborted } })

/-- The Start Command goes out: `ENC.START S`, and one write with `expect_response = true` (R144, R150, R151). -/
def sendStart (S : Session) (s : State) : State :=
  writeLast .command true
    (encStartOp (BitVec.ofNat 32 S.image.length)
      (present (.encStart (BitVec.ofNat 32 S.image.length)) []
        { s with session := some { S with phase := .awaitingStartAck } }))

/-- A move in `INIT`: produce the next sector, and when all are produced send the Start Command (R137, R150). -/
def initMove (S : Session) (s : State) : State :=
  if S.sectors.length < sectorCount S.image then
    let s1 := crcAppendOp (present .crcAppend (window S.image S.sectors.length) s)
    { s1 with session := some { S with sectors := S.sectors ++ (lastBytes s1).toList } }
  else sendStart S s

/-- What `START_OTHER_POLICY` makes of a response that no rule names (R154); with no value, no step. -/
def startOther (policy : Option Config.StartPolicy) (S : Session) (s : State) : Result :=
  match policy with
  | none => .refused .startOtherResponse
  | some .accept => uploadSector 0 S (takeInput s)
  | some .reject => .next (abortSession .startRejected S (takeInput s))
  | some .resend => .next (sendStart S s)

/-- A move in `AWAITING_START_ACK` (R151 to R154): the record is read from the queue and its response alone decides; with
nothing to read the state machine goes on waiting (R147). -/
def startAckMove (S : Session) (s : State) : Result :=
  match s.cmdQueue with
  | [] => .next (takeInput s)
  | r :: q =>
    let s1 := { s with cmdQueue := q }
    if r.response = Params.crcFail then .next (sendStart S s1)
    else if r.response = Params.ackRejected then .next (abortSession .startRejected S (takeInput s1))
    else if r.response = Params.ackAccepted then uploadSector 0 S (takeInput s1)
    else startOther Config.startOtherPolicy S s1

/-- The progress reported at sector i of n: `i / (n - 1) * 100` percent as a fraction (R157, log entry 20). -/
def progressAt (i n : Nat) : Report :=
  if n = 1 then .progress Config.progressSingle 1 else .progress (i * 100) (n - 1)

/-- A move in `AWAITING_SECTOR_ACK` (R156 to R160): the record's status alone decides. -/
def sectorAckMove (S : Session) (s : State) : Result :=
  match s.fwQueue with
  | [] => .next (takeInput s)
  | r :: q =>
    let s1 := takeInput { s with fwQueue := q }
    if r.status = Params.fwSuccess then
      let s2 := report (progressAt S.cursor (sectorCount S.image)) s1
      if S.cursor + 1 = sectorCount S.image then
        .next (closeTransport { s2 with session := some { S with phase := .complete } })
      else uploadSector (S.cursor + 1) S s2
    else if r.status = Params.fwCrcErr ∨ r.status = Params.fwLenErr ∨ r.status = Params.crcFail then
      uploadSector S.cursor S s1
    else if r.status = Params.fwSectorErr then uploadSector r.currentSector.toNat S s1
    else .next (abortSession .unknownError S s1)

/-- One move of the state machine's context: a chunk still to be sent goes first, then the phase decides (R149). -/
def hostTurn (s : State) : Result :=
  match s.jobs with
  | job :: rest => .next (sendChunk job rest s)
  | [] =>
    match s.session with
    | none => .next (takeInput s)
    | some S =>
      match S.phase with
      | .init => .next (initMove S s)
      | .awaitingStartAck => startAckMove S s
      | .uploadingSector => .next (sectorSent (takeInput s))
      | .awaitingSectorAck => sectorAckMove S s
      | .complete => .next (takeInput s)
      | .aborted => .next (takeInput s)

/-- Disconnection or transport-level exception (R161): a live session is aborted and the error surfaced; the chunks in
flight are given up with the session (log entry 16). DESIGN CHOICE: an exception that is no disconnection closes the link
and ends the subscriptions like one; a session that has ended is left as it is (R149; log entry 32). -/
def loseLink (s : State) : State :=
  let s1 := closeTransport { takeInput s with jobs := [] }
  match s.session with
  | none => s1
  | some S => if sessionLive s then abortSession .transportError S s1 else s1

end Sys2Proof.Machine
end

