-- ==== Sys2Proof/Machine/Wire.lean ====
section
/-! DEFINITION. The five wire structures as instructions: what the host's contract says is done with each
(spec/30_encoding.md R68 to R71, R74; spec/43_host_sequences.md R140 to R145; log entry 6). -/

namespace Sys2Proof.Machine

/-- `FRAME.START_CMD`, sent by this side: written to the transport with `expect_response = true` (R68, R144).
DESIGN CHOICE: with any trailer, though R68 fixes it as the checksum (log entry 7). -/
def execFrameStartCmd (size : BitVec 32) (trailer : Word16) (s : State) : Result :=
  .next (transportWrite .command (startCmdBytes size trailer) true (takeInput s))

/-- `FRAME.CMD_ACK`, received on the command-ack channel: the dispatcher issues it as `DEC.CACK` and puts the record on
the channel's queue (R69, R145). -/
def execFrameCmdAck (ackCode echoedCmd response : Word16) (reserved : Msg) (trailer : Word16) (s : State) : Result :=
  .next (dispatchCack (ackBytes ackCode echoedCmd response reserved trailer) s)

/-- `FRAME.SECTOR_ACK`, received on the firmware-ack channel: the dispatcher issues it as `DEC.FACK` and puts the record
on the channel's queue (R70, R145). -/
def execFrameSectorAck (sectorSent status currentSector : Word16) (reserved : Msg) (trailer : Word16) (s : State) :
    Result :=
  .next (dispatchFack (ackBytes sectorSent status currentSector reserved trailer) s)

/-- `FRAME.CHUNK`, sent by this side: written to the firmware attribute with `expect_response = false` (R71, R142,
R144). DESIGN CHOICE: a payload over `max_chunk_payload` of the unit size, which R71 bounds and R112 (b) leaves to the host,
is written as it is (log entry 30). -/
def execFrameChunk (tag : Word16) (seq : Byte) (payload : Msg) (s : State) : Result :=
  .next (transportWrite .firmware (chunkBytes tag seq payload) false (takeInput s))

/-- The index a sector handed over is sent under: the session's cursor, 0 without a session (log entry 14). -/
def currentIndex (s : State) : Nat :=
  match s.session with
  | none => 0
  | some S => S.cursor

/-- `FRAME.SECTOR`: never sent as one message, always cut into chunks: handed to the Chunker under its tag (R74, R138,
R140, R142). DESIGN CHOICE: with any trailer, though R74 fixes it as the checksum (log entry 7). -/
def execFrameSector (payload : Msg) (trailer : Word16) (s : State) : Result :=
  sendSector (currentIndex s) (sectorBytes payload trailer) (takeInput s)

end Sys2Proof.Machine
end

