-- ==== Sys2Proof/Machine/Dispatch.lean ====
section
/-! DEFINITION. Which meaning each instruction has: one arm per constructor of `Instr`. -/

namespace Sys2Proof.Machine

def exec (i : Instr) (s : State) : Host.Outcome State Fault Refusal :=
  match i with
  | .crcInit => Sys2Proof.Machine.execCrcInit s
  | .crcByte b => Sys2Proof.Machine.execCrcByte b s
  | .crcSum => Sys2Proof.Machine.execCrcSum s
  | .crcAppend => Sys2Proof.Machine.execCrcAppend s
  | .crcCheck => Sys2Proof.Machine.execCrcCheck s
  | .encStart size => Sys2Proof.Machine.execEncStart size s
  | .encChunk tag seq => Sys2Proof.Machine.execEncChunk tag seq s
  | .decCack => Sys2Proof.Machine.execDecCack s
  | .decFack => Sys2Proof.Machine.execDecFack s
  | .frameStartCmd size trailer => Sys2Proof.Machine.execFrameStartCmd size trailer s
  | .frameCmdAck a b c reserved trailer => Sys2Proof.Machine.execFrameCmdAck a b c reserved trailer s
  | .frameSectorAck a b c reserved trailer => Sys2Proof.Machine.execFrameSectorAck a b c reserved trailer s
  | .frameChunk tag seq payload => Sys2Proof.Machine.execFrameChunk tag seq payload s
  | .frameSector payload trailer => Sys2Proof.Machine.execFrameSector payload trailer s

end Sys2Proof.Machine
end

