-- ==== Sys2Proof/Machine/Fetch.lean ====
section
/-! DEFINITION. What stands at the head of the inputs, read as an instruction, and what becomes of a spelling that is none
(spec/30_encoding.md R64; spec/42_decode.md R122). -/

namespace Sys2Proof.Machine

/-- The refusal code of a command word that spells nothing (R64 a and b, R171). -/
def wordRefusal : WordError → RefusalCode
  | .illegalOp => .illegalOp
  | .badOperand => .badOperand

/-- A command word that spells no operation: refused, whatever the message (R64, R172). -/
def badWord (e : WordError) (s : State) : State := refuse (wordRefusal e) s

/-- Bytes that are no frame of their kind. A notification payload of a wrong length is decoded like any other and dropped
(R122, R147); bytes this side would send that are no frame are refused (log entry 24). -/
def badFrame (kind : WireKind) (m : Msg) (s : State) : Result :=
  match kind with
  | .cmdAck => .next (dispatchCack m s)
  | .sectorAck => .next (dispatchFack m s)
  | .startCmd => .refused (.notAFrame .startCmd)
  | .chunk => .refused (.notAFrame .chunk)
  | .sector => .refused (.notAFrame .sector)

/-- Nothing at the port: the block is idle and holds its registers (R182). -/
def idle (s : State) : State := s

/-- Place an event so that the very next step takes it. -/
def placeInput (e : Input) (s : State) : State := { s with inputs := e :: s.inputs }

/-- Subscribe to the channel that a kind arrives on; nothing for a kind that this side sends (R143, R192). -/
def subscribeFor (kind : WireKind) (s : State) : State :=
  match kind with
  | .cmdAck => { s with subCmd := true }
  | .sectorAck => { s with subFw := true }
  | .startCmd => s
  | .chunk => s
  | .sector => s

/-- Place the spelling of an instruction so that the very next step runs it. A notification reaches the callback only
under a subscription (R192), so placing one subscribes to its channel. -/
def placeSpelling (sp : Spelling) (s : State) : State :=
  match sp with
  | .word cw => placeInput (.issue cw []) s
  | .wire kind m => placeInput (.wire kind m) (subscribeFor kind s)

end Sys2Proof.Machine
end

