-- ==== Sys2Proof/Machine/Step.lean ====
section
/-! DEFINITION. One step: the event at the head of the inputs is taken, whole (spec/20_memory.md R49). Everything it does
is a definition of another file of Machine/. -/

namespace Sys2Proof.Machine

/-- One step of the machine. -/
def step (s : State) : Host.Outcome State Fault Refusal :=
  match s.inputs with
  | [] => .next (idle s)
  | .issue cw _ :: _ =>
    match decodeWord cw with
    | .ok i => exec i s
    | .error e => .next (badWord e s)
  | .wire kind m :: _ =>
    match decodeWire kind m with
    | .ok i => exec i s
    | .error _ => badFrame kind m s
  | .turn :: _ => hostTurn s
  | .openSession image unitSize :: _ => openSession image unitSize s
  | .disconnect :: _ => .next (loseLink s)
  | .read r :: _ => .next (readRegister r s)
  | .reset :: _ => .next (resetBlock s)

/-- `s` with the instruction of a table word at the head of the inputs: the outside presents it next (log entry 4). A
width the table does not have places nothing. -/
def State.withFetchWord (s : State) (nbits w : Nat) : State :=
  match tableSpelling nbits w with
  | some sp => placeSpelling sp s
  | none => s

end Sys2Proof.Machine
end

