-- ==== Sys2Proof/Safety.lean ====
section
/-! DEFINITION. What counts as a safe run, in the terms the claims use: an unrefused run (spec/10_state.md R24), frames
with right trailers (spec/30_encoding.md R66, R74), and the invariant that every step keeps. -/

namespace Sys2Proof

/-- No issue has been refused since reset: the premise R24 asks of a claim about a run. -/
def unrefused (s : Machine.State) : Bool := !s.stErr

/-- The trailer of a frame this side sends is the checksum of what it covers (R66, R68, R74). -/
def sealedFrame : Instr → Bool
  | .frameStartCmd size trailer => crc16 (slice (startCmdBytes size trailer) 0 Params.frameCover) == trailer
  | .frameSector payload trailer => crc16 payload == trailer
  | _ => true

/-- The register `ACC` is written by these operations and by no other (R21). -/
def writesAcc : Instr → Bool
  | .crcInit => true
  | .crcByte _ => true
  | .crcSum => true
  | _ => false

/-- `ST.EQ` is written by these operations and by no other (R23); an acknowledgement frame that arrives is issued as one
of them (R145). -/
def writesEq : Instr → Bool
  | .crcCheck => true
  | .decCack => true
  | .decFack => true
  | .frameCmdAck _ _ _ _ _ => true
  | .frameSectorAck _ _ _ _ _ => true
  | _ => false

/-- The instruction is an operation of the block (R62), not a wire structure. -/
def isOperation : Instr → Bool
  | .frameStartCmd _ _ => false
  | .frameCmdAck _ _ _ _ _ => false
  | .frameSectorAck _ _ _ _ _ => false
  | .frameChunk _ _ _ => false
  | .frameSector _ _ => false
  | _ => true

/-- The XOR of messages, byte by byte (R97). -/
def xorMsg (x y : Msg) : Msg := List.zipWith (fun a b => a ^^^ b) x y

/-- A message with bit k of the byte at offset i flipped (R96). -/
def flipBit (m : Msg) (i k : Nat) : Msg := m.set i (m.getD i 0 ^^^ ((1 : Byte) <<< k))

/-- The accepted message lengths of each operation, as R61's table lists them. -/
def lengthAccepted : Op → Nat → Prop
  | .crcInit, n => n = 0
  | .crcByte, n => n = 0
  | .crcSum, _ => True
  | .crcAppend, _ => True
  | .crcCheck, n => 2 ≤ n
  | .encStart, n => n = 0
  | .encChunk, n => 1 ≤ n ∧ n ≤ 509
  | .decCack, _ => True
  | .decFack, _ => True

namespace Machine

/-- The event may write `ACC`: an issue that spells one of R21's three operations, or the reset. -/
def touchesAcc : Input → Bool
  | .issue cw _ =>
    match decodeWord cw with
    | .ok i => writesAcc i
    | .error _ => false
  | .reset => true
  | _ => false

/-- The event may write `ST.EQ`: an issue that spells one of R23's three operations, a notification (which the dispatcher
issues as one of them, R145), or the reset. -/
def touchesEq : Input → Bool
  | .issue cw _ =>
    match decodeWord cw with
    | .ok i => writesEq i
    | .error _ => false
  | .wire .cmdAck _ => true
  | .wire .sectorAck _ => true
  | .reset => true
  | _ => false

/-- The second expansion of `checksum(M)` (R136): `CRC.INIT`, then one `CRC.BYTE` per byte. -/
def streamInputs (m : Msg) : List Input :=
  .issue (commandWord .crcInit) [] :: m.map (fun b => .issue (commandWord (.crcByte b)) [])

/-- A run of n steps of the machine, stopping at the first fault or refusal (R49, R207). -/
def runSteps : Nat → State → Result
  | 0, s => .next s
  | n + 1, s =>
    match step s with
    | .next t => runSteps n t
    | .fault r => .fault r
    | .refused r => .refused r

/-- The bytes of a sector before its trailer (R74). -/
def sectorPayloadOf (sector : Msg) : Msg := sector.take (sector.length - 2)

/-- The frame that a chunk still to be sent becomes (R71). -/
def jobFrame (j : ChunkJob) : Msg := chunkBytes j.tag j.seq j.payload

/-- `ECODE` is 0 exactly while `ERR` is 0, and only the codes 1 to 3 are ever recorded (R25, R173). -/
def statusInv (s : State) : Prop := (s.stErr = false ↔ s.stEcode = 0) ∧ s.stEcode.toNat ≤ 3

/-- Every chunk still to be sent is one that `ENC.CHUNK` accepts (R61, R139, R140). -/
def jobsInv (s : State) : Prop :=
  ∀ j ∈ s.jobs, 1 ≤ j.payload.length ∧ j.payload.length ≤ Params.chunkPayloadMax

/-- The unit size gives a payload (R139). -/
def unitInv (s : State) : Prop := 1 ≤ maxChunkPayload s.unitSize

/-- What a session keeps: an image the protocol can carry, sectors that are the segmentation so far and the whole of it
once the Start Command is out, a cursor inside the image while a sector is sent or awaited, and chunks left to send
exactly as long as the sector is being uploaded (R137, R148, R149, R155). -/
def sessionInv (S : Session) (jobs : List ChunkJob) : Prop :=
  S.image ≠ [] ∧ S.image.length < Params.imageLimit ∧ sectorCount S.image ≤ Params.sectorsMax ∧
  S.sectors = (segmentImage S.image).take S.sectors.length ∧
  (S.phase = .awaitingStartAck ∨ S.phase = .uploadingSector ∨ S.phase = .awaitingSectorAck ∨ S.phase = .complete →
    S.sectors = segmentImage S.image) ∧
  (S.phase = .uploadingSector ∨ S.phase = .awaitingSectorAck ∨ S.phase = .complete →
    S.cursor < sectorCount S.image) ∧
  (S.phase = .uploadingSector → jobs ≠ []) ∧
  (S.phase = .complete → S.cursor + 1 = sectorCount S.image)

/-- While a session is live the host is subscribed to both channels and the link is not closed (R143, R192). -/
def linkInv (s : State) : Prop := sessionLive s = true → s.subCmd = true ∧ s.subFw = true ∧ s.linkClosed = false

/-- The invariant of the machine. -/
structure Inv (s : State) : Prop where
  status : statusInv s
  jobs : jobsInv s
  unit : unitInv s
  session : ∀ S, s.session = some S → sessionInv S s.jobs
  link : linkInv s

end Machine

end Sys2Proof
end

