-- ==== Sys2Proof/Certificates/Slice0/Obligations.lean ====
section
/-! DEFINITION. The statements for the provers. Each says which rule of the spec it formalises. -/

open Sys2Proof Sys2Proof.Machine

/-- Reset leaves ACC and ST zero, and the reset event writes just these.
R190 gives the reset values of ACC and ST; that the reset is an event and leaves the host's session, queues and
completions as they were is the model's: log entry 23.
Derived: 70_reset_and_hazards.md R190, 70_reset_and_hazards.md R191, 10_state.md section 4, log entry 23. -/
def Obligations.ResetLeavesZero : Prop :=
  readAcc State.reset = 0x0000 ∧ readSt State.reset = 0x00 ∧
  ∀ (s : State) (rest : List Input), s.inputs = .reset :: rest →
    step s = .next { s with acc := 0x0000, stEq := false, stErr := false, stEcode := 0, inputs := rest }

/-- ST reads as EQ in bit 0, ERR in bit 1, ECODE in bits 4:2 and zero above.
Derived: 10_state.md R22. -/
def Obligations.StatusByteLayout : Prop :=
  ∀ s : State, (readSt s).getLsbD 0 = s.stEq ∧ (readSt s).getLsbD 1 = s.stErr ∧
    (readSt s).extractLsb' 2 3 = s.stEcode ∧ (readSt s).extractLsb' 5 3 = 0

/-- A host read returns ACC or ST and changes nothing.
Derived: 10_state.md R31, 20_memory.md R46. -/
def Obligations.HostReadChangesNothing : Prop :=
  ∀ (s : State) (rest : List Input),
    (s.inputs = .read .acc :: rest → step s = .next { s with inputs := rest, reads := s.reads ++ [.acc s.acc] }) ∧
    (s.inputs = .read .st :: rest → step s = .next { s with inputs := rest, reads := s.reads ++ [.st (readSt s)] })

/-- With nothing at the port the block is idle and holds its state.
The spec says that ACC and ST hold their values and gives no step for an idle block; a step that answers the same
state is the model's: log entry 2.
Derived: 60_exceptions.md R182, 70_reset_and_hazards.md R206, log entry 2. -/
def Obligations.IdleHoldsState : Prop :=
  ∀ s : State, s.inputs = [] → step s = .next s

/-- A step runs the instruction that the event at the head spells, and refuses what spells none.
R27 and R49 speak of issues; that a frame is run as an instruction is the model's (log entry 6), and so is the stop
on outbound bytes that are no frame (log entry 24).
Derived: 10_state.md R27, 20_memory.md R49, 30_encoding.md R64, log entries 6, 24. -/
def Obligations.StepRunsDecodedInstruction : Prop :=
  ∀ (s : State) (rest : List Input) (i : Instr),
    (∀ cw mi, s.inputs = .issue cw mi :: rest → decodeWord cw = .ok i → step s = exec i s) ∧
    (∀ kind m, s.inputs = .wire kind m :: rest → decodeWire kind m = .ok i → step s = exec i s) ∧
    (∀ cw mi, s.inputs = .issue cw mi :: rest →
      (decodeWord cw = .error .illegalOp → step s = .next (refuse .illegalOp s)) ∧
      (decodeWord cw = .error .badOperand → step s = .next (refuse .badOperand s))) ∧
    (∀ kind m e, s.inputs = .wire kind m :: rest → decodeWire kind m = .error e →
      kind = .startCmd ∨ kind = .chunk ∨ kind = .sector → step s = .refused (.notAFrame kind))

/-- Every issue gets a next state and exactly one completion, in order.
Derived: 20_memory.md R50, 70_reset_and_hazards.md R206, 10_state.md R28. -/
def Obligations.EveryIssueIsAnsweredOnce : Prop :=
  ∀ (s : State) (cw : CmdWord) (mi : Msg) (rest : List Input), s.inputs = .issue cw mi :: rest →
    ∃ t c, step s = .next t ∧ t.inputs = rest ∧ t.completions = s.completions ++ [c]

/-- No step drops, merges or reorders completions.
That a turn of the state machine holds at most one issue, and so adds at most one completion, is the model's (log
entry 13), and that a reset keeps the completions given is too (log entry 23).
Derived: 20_memory.md R50, log entries 13, 23. -/
def Obligations.CompletionsOnlyGrow : Prop :=
  ∀ s t : State, step s = .next t → ∃ cs, t.completions = s.completions ++ cs ∧ cs.length ≤ 1

/-- The op test, the must-be-zero test and the length test, in that order.
Stated: R64, R171, R174. -/
def Obligations.IssueTestsInOrder : Prop :=
  ∀ (s : State) (cw : CmdWord) (mi : Msg) (rest : List Input), s.inputs = .issue cw mi :: rest →
    (opField cw ∉ [0x10#8, 0x11#8, 0x12#8, 0x13#8, 0x14#8, 0x20#8, 0x21#8, 0x30#8, 0x31#8] →
      step s = .next (refuse .illegalOp s)) ∧
    (∀ o : Op, opField cw = opCode o →
      (operandClean o (argField cw) = false → step s = .next (refuse .badOperand s)) ∧
      (operandClean o (argField cw) = true →
        (¬ lengthAccepted o mi.length → step s = .next (refuse .badLength s)) ∧
        (lengthAccepted o mi.length → ∃ out a e, step s = .next (emit out { s with acc := a, stEq := e }))))

/-- A refusal changes ERR and ECODE, the first time only, and nothing else.
Stated: R172, R173. -/
def Obligations.RefusalRecordsFirstCode : Prop :=
  ∀ (s : State) (c : RefusalCode),
    (s.stErr = false → refuse c s = { s with
      stErr := true, stEcode := refusalValue c, inputs := s.inputs.tail, completions := s.completions ++ [.refused c] }) ∧
    (s.stErr = true → refuse c s = { s with
      inputs := s.inputs.tail, completions := s.completions ++ [.refused c] }) ∧
    refusalValue .illegalOp = 1 ∧ refusalValue .badOperand = 2 ∧ refusalValue .badLength = 3

/-- ERR is never cleared but by reset, ECODE keeps the first code, and no operation minds them.
Stated: R24, R25. -/
def Obligations.ErrIsSticky : Prop :=
  (∀ s t : State, step s = .next t →
    (s.inputs.head? ≠ some .reset → s.stErr = true → t.stErr = true ∧ t.stEcode = s.stEcode) ∧
    (s.stErr = false → t.stErr = false → s.inputs.head? ≠ some .reset → t.stEcode = s.stEcode) ∧
    (s.stErr = false → t.stErr = true →
      ∃ c, t.completions = s.completions ++ [.refused c] ∧ t.stEcode = refusalValue c) ∧
    (s.stErr = false → ∀ c, t.completions = s.completions ++ [.refused c] →
      t.stErr = true ∧ t.stEcode = refusalValue c) ∧
    ((s.stErr = false → s.stEcode = 0) → t.stErr = false → t.stEcode = 0)) ∧
  State.reset.stErr = false ∧ State.reset.stEcode = 0 ∧
  (∀ (s : State) (cw : CmdWord) (mi : Msg) (rest : List Input) (err : Bool) (ecode : BitVec 3),
    s.inputs = .issue cw mi :: rest → ∃ t u c, step s = .next t ∧
      step { s with stErr := err, stEcode := ecode } = .next u ∧ t.completions = s.completions ++ [c] ∧
      u.completions = s.completions ++ [c] ∧ u.acc = t.acc ∧ u.stEq = t.stEq)

/-- ACC changes only by CRC.INIT, CRC.BYTE, CRC.SUM and reset.
Derived: 10_state.md R21, 20_memory.md R53. -/
def Obligations.AccWrittenByThreeOperations : Prop :=
  ∀ s t : State, step s = .next t → t.acc ≠ s.acc →
    ∃ e rest, s.inputs = e :: rest ∧ touchesAcc e = true

/-- A run without the three checksum operations leaves ACC as it was.
Derived: 20_memory.md R53, 70_reset_and_hazards.md R194. -/
def Obligations.InterleavedRunKeepsAcc : Prop :=
  ∀ (n : Nat) (s t : State), runSteps n s = .next t →
    (∀ e ∈ s.inputs.take n, touchesAcc e = false) → t.acc = s.acc

/-- EQ changes only by CRC.CHECK, a decode, and reset.
Derived: 10_state.md R23, 43_host_sequences.md R145. -/
def Obligations.EqWrittenByComparisonsOnly : Prop :=
  (∀ s t : State, step s = .next t → t.stEq ≠ s.stEq → ∃ e rest, s.inputs = e :: rest ∧ touchesEq e = true) ∧
  (∀ (s t : State) (c : RefusalCode) (cw : CmdWord) (mi : Msg) (rest : List Input), s.inputs = .issue cw mi :: rest →
    step s = .next t → t.completions = s.completions ++ [.refused c] → t.stEq = s.stEq)

/-- One round shifts left, keeps 16 bits, and XORs the polynomial when bit 15 was set.
Stated: R90. -/
def Obligations.CrcRoundArithmetic : Prop :=
  (∀ a : Word16, (crcRound a).toNat =
    if 32768 ≤ a.toNat then (2 * a.toNat % 65536) ^^^ 0x1021 else 2 * a.toNat) ∧
  crcRound 0x0000 = 0x0000 ∧ crcRound 0x7FFF = 0xFFFE ∧ crcRound 0x8000 = 0x1021 ∧ crcRound 0xFFFF = 0xEFDF ∧
  crcRound 0x8810 = 0x0001

/-- The checksum of a message may be taken piece by piece, and both expansions leave it in ACC.
Stated: R94, R136. -/
def Obligations.ChecksumStreams : Prop :=
  (∀ x y : Msg, crc16 (x ++ y) = y.foldl crcByte (crc16 x)) ∧
  (∀ (m : Msg) (s : State) (rest : List Input), s.inputs = streamInputs m ++ rest →
    ∃ t, runSteps (m.length + 1) s = .next t ∧ t.acc = crc16 m ∧ t.inputs = rest) ∧
  (∀ (m : Msg) (s : State) (rest : List Input), s.inputs = .issue (commandWord .crcSum) m :: rest →
    ∃ t, runSteps 1 s = .next t ∧ t.acc = crc16 m ∧ t.inputs = rest)

/-- Zero bytes before a message do not change its checksum.
Stated: R95. -/
def Obligations.LeadingZerosInvisible : Prop :=
  crc16 [] = 0x0000 ∧ (∀ n, crc16 (zeros n) = 0x0000) ∧ (∀ (n : Nat) (m : Msg), crc16 (zeros n ++ m) = crc16 m) ∧
  crc16 [0x00, 0x31] = 0x2672

/-- Flipping any single bit of a message changes its checksum.
Stated: R96. -/
def Obligations.SingleBitFlipDetected : Prop :=
  ∀ (m : Msg) (i k : Nat), i < m.length → k < 8 → crc16 (flipBit m i k) ≠ crc16 m

/-- The checksum is linear over XOR, and what that says of an error pattern on a frame.
Stated: R97. -/
def Obligations.ChecksumIsLinear : Prop :=
  (∀ x y : Msg, x.length = y.length → crc16 (xorMsg x y) = crc16 x ^^^ crc16 y) ∧
  (∀ f e : Msg, f.length = 20 → e.length = 20 → crc16 (slice f 0 18) = field16 f 18 →
    (crc16 (slice (xorMsg f e) 0 18) = field16 (xorMsg f e) 18 ↔ crc16 (slice e 0 18) = field16 e 18))

/-- CRC.INIT: ACC becomes 0, done(none); its word; its refusals.
Stated: R98. -/
def Obligations.CrcInitClearsAcc : Prop :=
  commandWord .crcInit = 0x1000000000 ∧
  (∀ s, inputMessage s = [] → exec .crcInit s = .next { s with
    acc := 0x0000, inputs := s.inputs.tail, completions := s.completions ++ [.done .none] }) ∧
  (∀ s, inputMessage s ≠ [] → exec .crcInit s = .next (refuse .badLength s)) ∧
  (∀ (s : State) (cw : CmdWord) (mi : Msg) (rest : List Input), s.inputs = .issue cw mi :: rest →
    opField cw = 0x10 → (argField cw) ≠ 0 → step s = .next (refuse .badOperand s))

/-- CRC.BYTE b: ACC becomes crc_byte(ACC, b), eight rounds on the byte put into bits 15:8; its word; its refusals.
Derived: 40_crc.md R91, 40_crc.md R99. -/
def Obligations.CrcByteAbsorbs : Prop :=
  (∀ b, (commandWord (.crcByte b)).toNat = 0x1100000000 + b.toNat) ∧
  (∀ s b, inputMessage s = [] → exec (.crcByte b) s = .next { s with
    acc := crcByte s.acc b, inputs := s.inputs.tail, completions := s.completions ++ [.done .none] }) ∧
  (∀ s b, inputMessage s ≠ [] → exec (.crcByte b) s = .next (refuse .badLength s)) ∧
  (∀ (s : State) (cw : CmdWord) (mi : Msg) (rest : List Input), s.inputs = .issue cw mi :: rest →
    opField cw = 0x11 → (argField cw).extractLsb' 8 24 ≠ 0 → step s = .next (refuse .badOperand s)) ∧
  (∀ (a : Word16) (b : Byte), crcByte a b =
    crcRound (crcRound (crcRound (crcRound (crcRound (crcRound (crcRound (crcRound
      (a ^^^ (b.setWidth 16 <<< 8)))))))))) ∧
  crcByte 0x0000 0x00 = 0x0000 ∧ crcByte 0x0000 0x01 = 0x1021 ∧ crcByte 0x0000 0x80 = 0x9188 ∧
  crcByte 0x0000 0xFF = 0x1EF0 ∧ crcByte 0xFFFF 0x00 = 0xE1F0 ∧ crcByte 0x1234 0x56 = 0x3C40 ∧
  crcByte 0x8000 0x80 = 0x0000

/-- CRC.SUM: ACC becomes the checksum of the message, done(none), for any length.
Stated: R100. -/
def Obligations.CrcSumLeavesChecksum : Prop :=
  commandWord .crcSum = 0x1200000000 ∧
  (∀ s, exec .crcSum s = .next { s with
    acc := crc16 (inputMessage s), inputs := s.inputs.tail, completions := s.completions ++ [.done .none] }) ∧
  (∀ s n, inputMessage s = zeros n → exec .crcSum s = .next { s with
    acc := 0x0000, inputs := s.inputs.tail, completions := s.completions ++ [.done .none] }) ∧
  (∀ (s : State) (cw : CmdWord) (mi : Msg) (rest : List Input), s.inputs = .issue cw mi :: rest →
    opField cw = 0x12 → (argField cw) ≠ 0 → step s = .next (refuse .badOperand s))

/-- CRC.APPEND: the message with its checksum behind it, low byte first; ACC kept.
Stated: R101. -/
def Obligations.CrcAppendPutsTrailer : Prop :=
  commandWord .crcAppend = 0x1300000000 ∧
  (∀ s, ∃ mo, exec .crcAppend s = .next { s with
      inputs := s.inputs.tail, completions := s.completions ++ [.done (.bytes mo)] } ∧
    mo = inputMessage s ++ [(crc16 (inputMessage s)).extractLsb' 0 8, (crc16 (inputMessage s)).extractLsb' 8 8] ∧
    mo.length = (inputMessage s).length + 2 ∧ (inputMessage s = [] → mo = [0x00, 0x00])) ∧
  (∀ (s : State) (cw : CmdWord) (mi : Msg) (rest : List Input), s.inputs = .issue cw mi :: rest →
    opField cw = 0x13 → (argField cw) ≠ 0 → step s = .next (refuse .badOperand s))

/-- CRC.CHECK: EQ says whether the trailer is the body's checksum, read little-endian.
Stated: R102. -/
def Obligations.CrcCheckComparesTrailer : Prop :=
  commandWord .crcCheck = 0x1400000000 ∧
  (∀ (s : State) (body : Msg) (lo hi : Byte), inputMessage s = body ++ [lo, hi] → exec .crcCheck s = .next { s with
    stEq := decide ((crc16 body).toNat = lo.toNat + 256 * hi.toNat),
    inputs := s.inputs.tail, completions := s.completions ++ [.done .none] }) ∧
  (∀ s, (inputMessage s).length < 2 → exec .crcCheck s = .next (refuse .badLength s)) ∧
  (∀ (s : State) (m : Msg), inputMessage s = m ++ le16 (crc16 m) → exec .crcCheck s = .next { s with
    stEq := true, inputs := s.inputs.tail, completions := s.completions ++ [.done .none] }) ∧
  (∀ (s : State) (cw : CmdWord) (mi : Msg) (rest : List Input), s.inputs = .issue cw mi :: rest →
    opField cw = 0x14 → (argField cw) ≠ 0 → step s = .next (refuse .badOperand s))

/-- ENC.START: the 20 bytes of the Start Command for any size; registers kept.
Stated: R111, R68. -/
def Obligations.EncStartBuildsStartCommand : Prop :=
  (∀ size, (commandWord (.encStart size)).toNat = 0x2000000000 + size.toNat) ∧
  (∀ (s : State) (size : BitVec 32) (f : Msg), inputMessage s = [] →
    f = [0x01, 0x00, size.extractLsb' 0 8, size.extractLsb' 8 8, size.extractLsb' 16 8, size.extractLsb' 24 8] ++
      zeros 12 →
    exec (.encStart size) s = .next { s with
      inputs := s.inputs.tail,
      completions := s.completions ++
        [.done (.bytes (f ++ [(crc16 f).extractLsb' 0 8, (crc16 f).extractLsb' 8 8]))] }) ∧
  (∀ s size, inputMessage s ≠ [] → exec (.encStart size) s = .next (refuse .badLength s))

/-- ENC.CHUNK: tag, sequence byte and payload as given, for 1 to 509 bytes; registers kept.
Stated: R112. -/
def Obligations.EncChunkBuildsChunkFrame : Prop :=
  (∀ tag seq, (commandWord (.encChunk tag seq)).toNat = 0x2100000000 + 65536 * seq.toNat + tag.toNat) ∧
  (∀ (s : State) (tag : Word16) (seq : Byte), 1 ≤ (inputMessage s).length → (inputMessage s).length ≤ 509 →
    ∃ mo, exec (.encChunk tag seq) s = .next { s with
        inputs := s.inputs.tail, completions := s.completions ++ [.done (.bytes mo)] } ∧
      mo = [tag.extractLsb' 0 8, tag.extractLsb' 8 8, seq] ++ inputMessage s ∧
      mo.length = (inputMessage s).length + 3) ∧
  (∀ s tag seq, (inputMessage s).length < 1 ∨ 509 < (inputMessage s).length →
    exec (.encChunk tag seq) s = .next (refuse .badLength s)) ∧
  (∀ (s : State) (cw : CmdWord) (mi : Msg) (rest : List Input), s.inputs = .issue cw mi :: rest →
    opField cw = 0x21 → (argField cw).extractLsb' 24 8 ≠ 0 → step s = .next (refuse .badOperand s))

/-- A Start Command passes both decoders, and a chunk frame determines its operands.
Derived: 41_encode.md R113, 42_decode.md R124, 42_decode.md R125. -/
def Obligations.EncodersLoopBack : Prop :=
  (∀ (s : State) (size : BitVec 32), inputMessage s = startFrame size →
    exec .decCack s = .next { s with
      stEq := true, inputs := s.inputs.tail,
      completions := s.completions ++ [.done (.cack 0x0001 (size.extractLsb' 0 16) (size.extractLsb' 16 16))] } ∧
    exec .decFack s = .next { s with
      stEq := true, inputs := s.inputs.tail,
      completions := s.completions ++ [.done (.fack 0x0001 (size.extractLsb' 0 16) (size.extractLsb' 16 16))] }) ∧
  (∀ (tag tag' : Word16) (seq seq' : Byte) (p p' : Msg),
    chunkBytes tag seq p = chunkBytes tag' seq' p' → tag = tag' ∧ seq = seq' ∧ p = p')

/-- DEC.CACK: dropped unless 20 bytes; delivered, with field C overridden on a mismatch.
Stated: R124. -/
def Obligations.DecCackDecodes : Prop :=
  commandWord .decCack = 0x3000000000 ∧
  (∀ s, (inputMessage s).length ≠ 20 → exec .decCack s = .next { s with
    inputs := s.inputs.tail, completions := s.completions ++ [.done .none] }) ∧
  (∀ (s : State) (a b c r : Word16) (res : Msg), res.length = 12 → inputMessage s = ackBytes a b c res r →
    (crc16 (le16 a ++ le16 b ++ le16 c ++ res) = r → exec .decCack s = .next { s with
      stEq := true, inputs := s.inputs.tail, completions := s.completions ++ [.done (.cack a b c)] }) ∧
    (crc16 (le16 a ++ le16 b ++ le16 c ++ res) ≠ r → exec .decCack s = .next { s with
      stEq := false, inputs := s.inputs.tail, completions := s.completions ++ [.done (.cack a b 0xFFFF)] })) ∧
  (∀ (s : State) (cw : CmdWord) (mi : Msg) (rest : List Input), s.inputs = .issue cw mi :: rest →
    opField cw = 0x30 → (argField cw) ≠ 0 → step s = .next (refuse .badOperand s))

/-- DEC.FACK: dropped unless 20 bytes; delivered, with field B overridden on a mismatch.
Stated: R125. -/
def Obligations.DecFackDecodes : Prop :=
  commandWord .decFack = 0x3100000000 ∧
  (∀ s, (inputMessage s).length ≠ 20 → exec .decFack s = .next { s with
    inputs := s.inputs.tail, completions := s.completions ++ [.done .none] }) ∧
  (∀ (s : State) (a b c r : Word16) (res : Msg), res.length = 12 → inputMessage s = ackBytes a b c res r →
    (crc16 (le16 a ++ le16 b ++ le16 c ++ res) = r → exec .decFack s = .next { s with
      stEq := true, inputs := s.inputs.tail, completions := s.completions ++ [.done (.fack a b c)] }) ∧
    (crc16 (le16 a ++ le16 b ++ le16 c ++ res) ≠ r → exec .decFack s = .next { s with
      stEq := false, inputs := s.inputs.tail, completions := s.completions ++ [.done (.fack a 0xFFFF c)] })) ∧
  (∀ (s : State) (cw : CmdWord) (mi : Msg) (rest : List Input), s.inputs = .issue cw mi :: rest →
    opField cw = 0x31 → (argField cw) ≠ 0 → step s = .next (refuse .badOperand s))

/-- Both decoders read the same three numbers and differ only in which one a mismatch overrides.
Derived: 42_decode.md R127. -/
def Obligations.DecodersDifferInOneField : Prop :=
  (∀ s : State, (inputMessage s).length = 20 → ∃ a b c x y e,
    exec .decCack s = .next { s with
      stEq := e, inputs := s.inputs.tail, completions := s.completions ++ [.done (.cack a b x)] } ∧
    exec .decFack s = .next { s with
      stEq := e, inputs := s.inputs.tail, completions := s.completions ++ [.done (.fack a y c)] } ∧
    ((e = true ∧ x = c ∧ y = b) ∨ (e = false ∧ x = 0xFFFF ∧ y = 0xFFFF)) ∧
    (x ≠ 0xFFFF ∨ y ≠ 0xFFFF → e = true)) ∧
  (∀ s : State, inputMessage s = zeros 20 →
    exec .decCack s = .next { s with
      stEq := true, inputs := s.inputs.tail, completions := s.completions ++ [.done (.cack 0 0 0)] } ∧
    exec .decFack s = .next { s with
      stEq := true, inputs := s.inputs.tail, completions := s.completions ++ [.done (.fack 0 0 0)] })

/-- The frame of the nine operations.
Derived: 10_state.md R21, 10_state.md R23, 10_state.md R30, 60_exceptions.md R172. -/
def Obligations.OperationsTouchOnlyTheirRegisters : Prop :=
  ∀ (i : Instr) (s t : State), isOperation i = true → exec i s = .next t →
    (writesAcc i = false → t.acc = s.acc) ∧ (writesEq i = false → t.stEq = s.stEq) ∧
    ((∀ c, t.completions ≠ s.completions ++ [.refused c]) → t.stErr = s.stErr ∧ t.stEcode = s.stEcode) ∧
    t.inputs = s.inputs.tail ∧ t.reads = s.reads ∧ t.session = s.session ∧ t.jobs = s.jobs ∧
    t.unitSize = s.unitSize ∧ t.cmdQueue = s.cmdQueue ∧ t.fwQueue = s.fwQueue ∧ t.subCmd = s.subCmd ∧
    t.subFw = s.subFw ∧ t.linkClosed = s.linkClosed ∧ t.writes = s.writes ∧ t.reports = s.reports ∧
    t.freeIdx = s.freeIdx

/-- What an operation hands over depends on its issue alone, never on ACC, ST or history.
Derived: 10_state.md R30, 41_encode.md R113. -/
def Obligations.OutputDependsOnIssueAlone : Prop :=
  ∀ (i : Instr) (s s' t t' : State), isOperation i = true → inputMessage s = inputMessage s' →
    exec i s = .next t → exec i s' = .next t' →
    (∃ c, t.completions = s.completions ++ [c] ∧ t'.completions = s'.completions ++ [c]) ∧
    (i = .crcInit ∨ i = .crcSum → t.completions = s.completions ++ [.done .none] → t.acc = t'.acc)

/-- Issuing the same operation twice gives the same completion and leaves the registers as the first did.
Derived: 20_memory.md R46. -/
def Obligations.SecondIssueIsIdempotent : Prop :=
  ∀ (s : State) (cw : CmdWord) (mi : Msg) (rest : List Input) (i : Instr),
    s.inputs = .issue cw mi :: .issue cw mi :: rest → decodeWord cw = .ok i → (∀ b, i ≠ .crcByte b) →
    ∃ t u c, step s = .next t ∧ step t = .next u ∧ t.completions = s.completions ++ [c] ∧
      u.completions = t.completions ++ [c] ∧ u.acc = t.acc ∧ readSt u = readSt t

/-- Decoding the encoding of any well-formed instruction gives it back.
Well formed is without regard to the trailer's value: the model's choice, log entry 7.
Derived: 30_encoding.md R60, 30_encoding.md R63, 30_encoding.md R66, log entry 7. -/
def Obligations.DecodeInvertsEncode : Prop :=
  ∀ i : Instr, wellFormed i = true → decode (encode i) = .ok i

/-- Every command word that decodes is the encoding of what it decodes to.
Derived: 30_encoding.md R60, 30_encoding.md R64. -/
def Obligations.EncodeInvertsWordDecode : Prop :=
  ∀ (cw : CmdWord) (i : Instr), decodeWord cw = .ok i → encode i = .word cw

/-- Every byte sequence that decodes as a frame is the encoding of what it decodes to.
Well formed is without regard to the trailer's value: the model's choice, log entry 7.
Derived: 30_encoding.md R65, 30_encoding.md R71, 30_encoding.md R74, 30_encoding.md R76, log entry 7. -/
def Obligations.EncodeInvertsWireDecode : Prop :=
  ∀ (kind : WireKind) (m : Msg) (i : Instr), decodeWire kind m = .ok i → wellFormed i = true ∧ encode i = .wire kind m

/-- Words written out from the spec decode to what they stand for.
Derived: 30_encoding.md R77, 30_encoding.md R68, 30_encoding.md R69, 30_encoding.md R70, 30_encoding.md R71,
30_encoding.md R74, 95_test_vectors.md section 2. -/
def Obligations.WrittenWordsDecode : Prop :=
  decodeWord 0x1000000000 = .ok .crcInit ∧ decodeWord 0x1100000031 = .ok (.crcByte 0x31) ∧
  decodeWord 0x1200000000 = .ok .crcSum ∧ decodeWord 0x1300000000 = .ok .crcAppend ∧
  decodeWord 0x1400000000 = .ok .crcCheck ∧ decodeWord 0x2000001388 = .ok (.encStart 5000) ∧
  decodeWord 0x21007F0102 = .ok (.encChunk 0x0102 0x7F) ∧ decodeWord 0x3000000000 = .ok .decCack ∧
  decodeWord 0x3100000000 = .ok .decFack ∧ decodeWord 0x1500000000 = .error .illegalOp ∧
  decodeWord 0x1100000142 = .error .badOperand ∧ decodeWord 0x2101000000 = .error .badOperand ∧
  decodeWire .startCmd ([0x01, 0x00, 0x88, 0x13, 0x00, 0x00] ++ zeros 12 ++ [0x6A, 0x44]) =
    .ok (.frameStartCmd 5000 0x446A) ∧
  decodeWire .cmdAck ([0x03, 0x00, 0x01, 0x00, 0x00, 0x00] ++ zeros 12 ++ [0x56, 0xA8]) =
    .ok (.frameCmdAck 0x0003 0x0001 0x0000 (zeros 12) 0xA856) ∧
  decodeWire .sectorAck ([0x01, 0x00, 0x78, 0x56, 0x34, 0x12] ++ zeros 12 ++ [0x85, 0x80]) =
    .ok (.frameSectorAck 0x0001 0x5678 0x1234 (zeros 12) 0x8085) ∧
  decodeWire .chunk [0x02, 0x01, 0x7F, 0xAA] = .ok (.frameChunk 0x0102 0x7F [0xAA]) ∧
  decodeWire .sector [0x01, 0x02, 0x03, 0x04, 0x05, 0x06, 0x0C, 0xD9] =
    .ok (.frameSector [0x01, 0x02, 0x03, 0x04, 0x05, 0x06] 0xD90C)

/-- A Start Command frame is written with expect_response = true, and sealed it is ENC.START's.
What is done with this row is the model's reading (log entry 6), and so is the attribute command that the frame is
written to (log entry 25). R68 fixes the trailer as the checksum; that a frame with any other trailer is an
instruction too and is written is the model's choice (log entry 7); that a write attempted after the transport is
closed is recorded like any other is its choice (log entry 16), and the host goes on without the transport's
acknowledgement of delivery (log entry 17).
Derived: 30_encoding.md R68, 43_host_sequences.md R144, 41_encode.md R111, log entries 6, 7, 16, 17, 25. -/
def Obligations.StartCommandIsWritten : Prop :=
  ∀ (s : State) (size : BitVec 32) (trailer : Word16), ∃ f : Msg,
    exec (.frameStartCmd size trailer) s = .next { s with
      inputs := s.inputs.tail, writes := s.writes ++ [WireWrite.mk .command f true] } ∧
    f = [0x01, 0x00] ++ le32 size ++ zeros 12 ++ le16 trailer ∧ f.length = 20 ∧
    field16 f 0 = 0x0001 ∧ field32 f 2 = size ∧ slice f 6 18 = zeros 12 ∧ field16 f 18 = trailer ∧
    (crc16 (slice f 0 18) = trailer → f = startFrame size)

/-- A chunk frame is written with expect_response = false, and its bytes are ENC.CHUNK's.
What is done with this row is the model's reading (log entry 6), and that a payload over max_chunk_payload of the
unit size is written too is its choice (log entry 30): R71 bounds the payload and says nothing of a longer one. In
any state of the link: that a write attempted after the transport is closed is recorded like any other is its choice
(log entry 16).
Derived: 30_encoding.md R71, 43_host_sequences.md R142, 43_host_sequences.md R144, 41_encode.md R112, log entries 6,
16, 30. -/
def Obligations.ChunkFrameIsWritten : Prop :=
  ∀ (s : State) (tag : Word16) (seq : Byte) (payload : Msg), ∃ f : Msg,
    exec (.frameChunk tag seq payload) s = .next { s with
      inputs := s.inputs.tail, writes := s.writes ++ [WireWrite.mk .firmware f false] } ∧
    f.length = payload.length + 3 ∧ field16 f 0 = tag ∧ field8 f 2 = seq ∧ f.drop 3 = payload ∧
    (1 ≤ payload.length → payload.length ≤ 509 → ∀ u : State, inputMessage u = payload →
      ∃ v, exec (.encChunk tag seq) u = .next v ∧ lastBytes v = some f)

/-- A Command Acknowledgement that arrives is decoded as DEC.CACK and its record queued.
That the frame is an instruction and what becomes of a record nobody awaits are the model's (log entries 6 and 10);
that a notification without a subscription is lost is the spec's inference in R192 and the model's reading of it
(log entry 26).
Derived: 43_host_sequences.md R145, 43_host_sequences.md R146, 42_decode.md R124, 93_implementation_defined.md U6,
70_reset_and_hazards.md R192, log entries 6, 10, 26. -/
def Obligations.CommandAckIsDecodedAndQueued : Prop :=
  ∀ (s : State) (a b c r : Word16) (res : Msg), res.length = 12 →
    (s.subCmd = true → ∃ (ok : Bool) (t : State), exec (.frameCmdAck a b c res r) s = .next t ∧
      (ok = true ↔ crc16 (le16 a ++ le16 b ++ le16 c ++ res) = r) ∧
      t = { s with
        stEq := ok, inputs := s.inputs.tail,
        completions := s.completions ++ [.done (.cack a b (if ok then c else 0xFFFF))],
        cmdQueue := t.cmdQueue, freeIdx := t.freeIdx } ∧
      (awaitsCack s = true → t.cmdQueue = s.cmdQueue ++ [CackRecord.mk a b (if ok then c else 0xFFFF)] ∧
        t.freeIdx = s.freeIdx) ∧
      (awaitsCack s = false → t.freeIdx = s.freeIdx + 1 ∧ (
        t.cmdQueue = s.cmdQueue ++ [CackRecord.mk a b (if ok then c else 0xFFFF)] ∨
        t.cmdQueue = s.cmdQueue ∨ t.cmdQueue = [CackRecord.mk a b (if ok then c else 0xFFFF)]))) ∧
    (s.subCmd = false → exec (.frameCmdAck a b c res r) s = .next { s with inputs := s.inputs.tail })

/-- A Sector Acknowledgement that arrives is decoded as DEC.FACK and its record queued.
That the frame is an instruction and what becomes of a record nobody awaits are the model's (log entries 6 and 10);
that a notification without a subscription is lost is the spec's inference in R192 and the model's reading of it
(log entry 26).
Derived: 43_host_sequences.md R145, 43_host_sequences.md R146, 42_decode.md R125, 93_implementation_defined.md U6,
70_reset_and_hazards.md R192, log entries 6, 10, 26. -/
def Obligations.SectorAckIsDecodedAndQueued : Prop :=
  ∀ (s : State) (a b c r : Word16) (res : Msg), res.length = 12 →
    (s.subFw = true → ∃ (ok : Bool) (t : State), exec (.frameSectorAck a b c res r) s = .next t ∧
      (ok = true ↔ crc16 (le16 a ++ le16 b ++ le16 c ++ res) = r) ∧
      t = { s with
        stEq := ok, inputs := s.inputs.tail,
        completions := s.completions ++ [.done (.fack a (if ok then b else 0xFFFF) c)],
        fwQueue := t.fwQueue, freeIdx := t.freeIdx } ∧
      (awaitsFack s = true → t.fwQueue = s.fwQueue ++ [FackRecord.mk a (if ok then b else 0xFFFF) c] ∧
        t.freeIdx = s.freeIdx) ∧
      (awaitsFack s = false → t.freeIdx = s.freeIdx + 1 ∧ (
        t.fwQueue = s.fwQueue ++ [FackRecord.mk a (if ok then b else 0xFFFF) c] ∨
        t.fwQueue = s.fwQueue ∨ t.fwQueue = [FackRecord.mk a (if ok then b else 0xFFFF) c]))) ∧
    (s.subFw = false → exec (.frameSectorAck a b c res r) s = .next { s with inputs := s.inputs.tail })

/-- A sector is cut into chunks under its tag, when the unit size and the count allow it.
That the row is an instruction and the index its sector is sent under are the model's (log entries 6 and 14), and so
are the forms of the two stops: the fault (log entry 9) and the refusal (log entry 8). R74 fixes the trailer as the
checksum; that a sector with any other trailer is cut too is its choice (log entry 7).
Derived: 43_host_sequences.md R138, 43_host_sequences.md R140, 43_host_sequences.md R141, 43_host_sequences.md R142,
43_host_sequences.md R139, log entries 6, 7, 8, 9, 14. -/
def Obligations.SectorIsHandedToChunker : Prop :=
  ∀ (s : State) (payload : Msg) (trailer : Word16) (sector : Msg), sector = payload ++ le16 trailer →
    (7 ≤ s.unitSize → chunkCount sector.length (maxChunkPayload s.unitSize).toNat ≤ 256 →
      ∃ t, exec (.frameSector payload trailer) s = .next t ∧
        t = { s with inputs := s.inputs.tail, jobs := t.jobs } ∧
        t.jobs.map jobFrame = s.jobs.map jobFrame ++ chunkFrames sector (maxChunkPayload s.unitSize).toNat
          (if sector.length < 4098 then 0xFFFF else BitVec.ofNat 16 (currentIndex s))) ∧
    (s.unitSize < 7 → exec (.frameSector payload trailer) s = .fault .unitTooSmall) ∧
    (7 ≤ s.unitSize → 256 < chunkCount sector.length (maxChunkPayload s.unitSize).toNat →
      exec (.frameSector payload trailer) s = .refused .tooManyChunks)

/-- The frame of the five wire structures.
What a wire structure does as an instruction, and so what it leaves alone, is the model's reading of the row: log
entry 6.
Derived: 10_state.md R21, 10_state.md R24, 43_host_sequences.md R145, log entry 6. -/
def Obligations.WireStructuresKeepRegisters : Prop :=
  ∀ (i : Instr) (s t : State), isOperation i = false → exec i s = .next t →
    t.acc = s.acc ∧ t.stErr = s.stErr ∧ t.stEcode = s.stEcode ∧ t.inputs = s.inputs.tail ∧ t.reads = s.reads ∧
    t.session = s.session ∧ t.unitSize = s.unitSize ∧ t.subCmd = s.subCmd ∧ t.subFw = s.subFw ∧
    t.linkClosed = s.linkClosed ∧ t.reports = s.reports ∧
    (writesEq i = false → t.stEq = s.stEq ∧ t.completions = s.completions ∧ t.freeIdx = s.freeIdx) ∧
    ((∀ size k, i ≠ .frameStartCmd size k) → (∀ tag q p, i ≠ .frameChunk tag q p) → t.writes = s.writes) ∧
    ((∀ p k, i ≠ .frameSector p k) → t.jobs = s.jobs) ∧
    ((∀ a b c res k, i ≠ .frameCmdAck a b c res k) → t.cmdQueue = s.cmdQueue) ∧
    ((∀ a b c res k, i ≠ .frameSectorAck a b c res k) → t.fwQueue = s.fwQueue)

/-- A notification that is not 20 bytes is dropped: with a subscription its completion is the one trace.
That a notification without a subscription is lost is the spec's inference in R192 and the model's reading of it:
log entry 26.
Derived: 42_decode.md R121, 42_decode.md R122, 43_host_sequences.md R147, 70_reset_and_hazards.md R192, log entry 26. -/
def Obligations.WrongLengthPayloadIsDropped : Prop :=
  ∀ (s : State) (m : Msg) (rest : List Input), m.length ≠ 20 →
    (s.subCmd = true → s.inputs = .wire .cmdAck m :: rest → step s = .next { s with
      inputs := rest, completions := s.completions ++ [.done .none] }) ∧
    (s.subFw = true → s.inputs = .wire .sectorAck m :: rest → step s = .next { s with
      inputs := rest, completions := s.completions ++ [.done .none] }) ∧
    (s.subCmd = false → s.inputs = .wire .cmdAck m :: rest → step s = .next { s with inputs := rest }) ∧
    (s.subFw = false → s.inputs = .wire .sectorAck m :: rest → step s = .next { s with inputs := rest })

/-- segment gives ceil(S/4096) sealed sectors whose payloads are the image.
Derived: 43_host_sequences.md R137, 30_encoding.md R74. -/
def Obligations.SegmentReconstructsImage : Prop :=
  ∀ image : Msg, image ≠ [] →
    (segmentImage image).length = (image.length + 4095) / 4096 ∧
    ((segmentImage image).map sectorPayloadOf).flatten = image ∧
    (∀ sector ∈ segmentImage image,
      sector = sectorPayloadOf sector ++ le16 (crc16 (sectorPayloadOf sector)) ∧
      1 ≤ (sectorPayloadOf sector).length ∧ (sectorPayloadOf sector).length ≤ 4096) ∧
    (∀ j sector, (segmentImage image)[j]? = some sector → j + 1 < (segmentImage image).length →
      (sectorPayloadOf sector).length = 4096)

/-- The sentinel tag goes to a short last sector and to no other.
Derived: 43_host_sequences.md R138, 90_conflicts.md C7. -/
def Obligations.OnlyShortLastSectorTaggedSentinel : Prop :=
  ∀ image : Msg, image ≠ [] → sectorCount image ≤ 65535 →
    ∀ j sector, (segmentImage image)[j]? = some sector →
      (sectorTag j sector = 0xFFFF ↔ j + 1 = sectorCount image ∧ image.length % 4096 ≠ 0) ∧
      (sectorTag j sector ≠ 0xFFFF → (sectorTag j sector).toNat = j)

/-- max_chunk_payload: at least 1 exactly from unit 7, 509 from 515, never more; the rule's values.
R139 says that such a unit is a configuration error and there is no transfer; that the machine then has no next
state at all is the model's: log entry 9.
Derived: 43_host_sequences.md R139, log entry 9. -/
def Obligations.MaxChunkPayloadBounds : Prop :=
  (∀ u : Nat, maxChunkPayload u = min 512 ((u : Int) - 3) - 3 ∧ (1 ≤ maxChunkPayload u ↔ 7 ≤ u) ∧
    maxChunkPayload u ≤ 509 ∧ (515 ≤ u → maxChunkPayload u = 509)) ∧
  maxChunkPayload 7 = 1 ∧ maxChunkPayload 23 = 17 ∧ maxChunkPayload 100 = 94 ∧
  (∀ (s : State) (image : Msg) (u : Nat) (rest : List Input), s.inputs = .openSession image u :: rest →
    sessionLive s = false → image ≠ [] → u < 7 → ∀ t, step s ≠ .next t)

/-- chunk gives ceil(L/m) frames whose payloads are the sector, the last marked 0xFF.
Derived: 43_host_sequences.md R140, 43_host_sequences.md R141, 41_encode.md R112. -/
def Obligations.ChunkReconstructsSector : Prop :=
  ∀ (sector : Msg) (m : Nat) (tag : Word16), sector ≠ [] → 1 ≤ m → chunkCount sector.length m ≤ 256 →
    (chunkFrames sector m tag).length = (sector.length + m - 1) / m ∧
    ((chunkFrames sector m tag).map (fun f => f.drop 3)).flatten = sector ∧
    (∀ q f, (chunkFrames sector m tag)[q]? = some f →
      f.take 2 = le16 tag ∧ 1 ≤ (f.drop 3).length ∧ (f.drop 3).length ≤ m ∧
      (q + 1 < (chunkFrames sector m tag).length → (f.drop 3).length = m) ∧
      f[2]? = some (if q + 1 = (chunkFrames sector m tag).length then 0xFF else BitVec.ofNat 8 q))

/-- A full sector fits 256 chunks exactly when the payload is at least 17, the unit at least 23.
Derived: 43_host_sequences.md R141, 70_reset_and_hazards.md R204. -/
def Obligations.FullSectorNeedsSeventeen : Prop :=
  (∀ m : Nat, 1 ≤ m → (chunkCount 4098 m ≤ 256 ↔ 17 ≤ m)) ∧ (∀ u : Nat, 17 ≤ maxChunkPayload u ↔ 23 ≤ u)

/-- The host's turns send a handed-over sector as exactly the frames of chunk, in order.
The chunks held as jobs and one of them per turn are the model's (log entries 13 and 14), and so is recording the
writes whatever the link's state (log entry 16).
Derived: 43_host_sequences.md R140, 43_host_sequences.md R142, 43_host_sequences.md R141, 43_host_sequences.md R155,
log entries 13, 14, 16. -/
def Obligations.TurnsSendTheSector : Prop :=
  ∀ (s : State) (sector : Msg) (m : Nat) (tag : Word16) (later : List ChunkJob) (rest : List Input),
    sector ≠ [] → 1 ≤ m → m ≤ 509 → chunkCount sector.length m ≤ 256 → s.jobs = chunkJobs sector m tag ++ later →
    s.inputs = List.replicate (chunkCount sector.length m) .turn ++ rest →
    ∃ t, runSteps (chunkCount sector.length m) s = .next t ∧
      t = { s with
        inputs := rest, jobs := later, session := t.session,
        writes := s.writes ++ (chunkFrames sector m tag).map (fun f => WireWrite.mk .firmware f false),
        completions := s.completions ++ (chunkFrames sector m tag).map (fun f => .done (.bytes f)) } ∧
      (∀ S, later = [] → s.session = some S → S.phase = .uploadingSector →
        t.session = some { S with phase := .awaitingSectorAck }) ∧
      (∀ S, s.session = some S → S.phase ≠ .uploadingSector ∨ later ≠ [] → t.session = some S) ∧
      (s.session = none → t.session = none)

/-- Opening a session: INIT, both channels subscribed; bad images and units are turned away.
The model's own are the emptied queues and chunks (log entry 29), the form of the two faults (log entry 9), the
refusal of a too large image as a stop (log entry 8), the refusal of a second session (log entry 12) which stop is
named where two errors hold at once (log entry 31) and that both channels are subscribed as early as this (log entry
33).
Derived: 43_host_sequences.md R137, 43_host_sequences.md R139, 43_host_sequences.md R148, 43_host_sequences.md R149,
70_reset_and_hazards.md R192, 93_implementation_defined.md U5, log entries 8, 9, 12, 29, 31, 33. -/
def Obligations.SessionOpensOnGoodImage : Prop :=
  ∀ (s : State) (image : Msg) (u : Nat) (rest : List Input), s.inputs = .openSession image u :: rest →
    (sessionLive s = false → image ≠ [] → 7 ≤ u → image.length < 4294967296 → sectorCount image ≤ 65535 →
      step s = .next { s with
        inputs := rest, unitSize := u, jobs := [], cmdQueue := [], fwQueue := [], subCmd := true, subFw := true,
        linkClosed := false, session := some { image := image, sectors := [], cursor := 0, phase := .init } }) ∧
    (sessionLive s = false → image = [] → step s = .fault .emptyImage) ∧
    (sessionLive s = false → image ≠ [] → u < 7 → step s = .fault .unitTooSmall) ∧
    (sessionLive s = false → image ≠ [] → 7 ≤ u → 4294967296 ≤ image.length ∨ 65535 < sectorCount image →
      step s = .refused .imageTooLarge) ∧
    (sessionLive s = true → step s = .refused .sessionLive)

/-- In INIT a turn produces the next sector, and when all are there sends the Start Command.
The size of a turn's move and segmenting before the Start Command are the model's (log entry 13), and so is the
attribute command that the frame is written to (log entry 25), the write being recorded whatever the link's state
(log entry 16) and the host going on without the acknowledgement of delivery (log entry 17).
Derived: 43_host_sequences.md R137, 43_host_sequences.md R150, 43_host_sequences.md R144, 91_not_in_source.md N12,
log entries 13, 16, 17, 25. -/
def Obligations.InitSegmentsThenSendsStart : Prop :=
  ∀ (s : State) (S : Session) (rest : List Input), s.inputs = .turn :: rest → s.jobs = [] → s.session = some S →
    S.phase = .init →
    (S.sectors.length < sectorCount S.image → step s = .next { s with
      inputs := rest, completions := s.completions ++ [.done (.bytes (withTrailer (window S.image S.sectors.length)))],
      session := some { S with sectors := S.sectors ++ [withTrailer (window S.image S.sectors.length)] } }) ∧
    (sectorCount S.image ≤ S.sectors.length → S.image.length < 4294967296 → step s = .next { s with
      inputs := rest,
      completions := s.completions ++ [.done (.bytes (startFrame (BitVec.ofNat 32 S.image.length)))],
      writes := s.writes ++ [WireWrite.mk .command (startFrame (BitVec.ofNat 32 S.image.length)) true],
      session := some { S with phase := .awaitingStartAck } })

/-- A start response of 0xFFFF makes the host resend the identical Start Command and keep waiting.
One record per turn is the model's (log entry 13), and so is the attribute command that the frame is written to (log
entry 25), the write being recorded whatever the link's state (log entry 16) and the host going on without the
acknowledgement of delivery (log entry 17); that no count caps the resends is the reference default (R151, U8, log
entry 18).
Derived: 43_host_sequences.md R151, 91_not_in_source.md N12, 93_implementation_defined.md U8, log entries 13, 16,
17, 18, 25. -/
def Obligations.StartSentinelResendsStart : Prop :=
  ∀ (s : State) (S : Session) (rest : List Input) (r : CackRecord) (q : List CackRecord),
    s.inputs = .turn :: rest → s.jobs = [] → s.session = some S → S.phase = .awaitingStartAck →
    s.cmdQueue = r :: q → r.response = 0xFFFF → S.image.length < 4294967296 → step s = .next { s with
      inputs := rest, cmdQueue := q,
      completions := s.completions ++ [.done (.bytes (startFrame (BitVec.ofNat 32 S.image.length)))],
      writes := s.writes ++ [WireWrite.mk .command (startFrame (BitVec.ofNat 32 S.image.length)) true] }

/-- Rejected aborts, accepted goes to sector 0, any other response has no step, none waits.
The model's own are one record per turn (log entry 13), closing the transport on a rejection, read from the error
taxonomy (log entry 15), the end of both subscriptions (log entry 16), the form of the stop on too many chunks (log
entry 8) and START_OTHER_POLICY left without a value (log entry 19); that with no record the host goes on waiting
without end, in turns that take the event and change nothing else, is the reference default (R147, U7) as the model
reads it (log entry 18).
Derived: 43_host_sequences.md R152, 43_host_sequences.md R153, 43_host_sequences.md R154, 43_host_sequences.md R162,
43_host_sequences.md R141, 43_host_sequences.md R147, 93_implementation_defined.md U7, log entries 8, 13, 15, 16,
18, 19. -/
def Obligations.StartResponseDecides : Prop :=
  ∀ (s : State) (S : Session) (rest : List Input), s.inputs = .turn :: rest → s.jobs = [] → s.session = some S →
    S.phase = .awaitingStartAck →
    (s.cmdQueue = [] → step s = .next { s with inputs := rest }) ∧
    (∀ r q, s.cmdQueue = r :: q →
      (r.response = 0x0001 → step s = .next { s with
        inputs := rest, cmdQueue := q, session := some { S with phase := .aborted },
        reports := s.reports ++ [.startRejected], linkClosed := true, subCmd := false, subFw := false }) ∧
      (r.response = 0x0000 → ∀ sector, S.sectors[0]? = some sector → 7 ≤ s.unitSize →
        chunkCount sector.length (maxChunkPayload s.unitSize).toNat ≤ 256 → step s = .next { s with
          inputs := rest, cmdQueue := q, session := some { S with cursor := 0, phase := .uploadingSector },
          jobs := chunkJobs sector (maxChunkPayload s.unitSize).toNat (sectorTag 0 sector) }) ∧
      (r.response = 0x0000 → ∀ sector, S.sectors[0]? = some sector → 7 ≤ s.unitSize →
        256 < chunkCount sector.length (maxChunkPayload s.unitSize).toNat → step s = .refused .tooManyChunks) ∧
      (0x0002 ≤ r.response.toNat → r.response.toNat ≤ 0xFFFE → step s = .refused .startOtherResponse))

/-- A success status reports progress and goes on to the next sector, or completes after the last.
The model's own are one record per turn (log entry 13), the end of both subscriptions when the transport is closed
(log entry 16), the number reported for one sector (log entry 20) and the form of the stop on too many chunks (log
entry 8).
Derived: 43_host_sequences.md R156, 43_host_sequences.md R157, 43_host_sequences.md R141, log entries 8, 13, 16, 20. -/
def Obligations.SectorSuccessAdvances : Prop :=
  ∀ (s : State) (S : Session) (rest : List Input) (r : FackRecord) (q : List FackRecord) (n : Nat) (p : Report),
    s.inputs = .turn :: rest → s.jobs = [] → s.session = some S → S.phase = .awaitingSectorAck →
    s.fwQueue = r :: q → r.status = 0x0000 → n = sectorCount S.image →
    p = (if n = 1 then .progress 100 1 else .progress (S.cursor * 100) (n - 1)) →
    (S.cursor + 1 = n → step s = .next { s with
      inputs := rest, fwQueue := q, reports := s.reports ++ [p], session := some { S with phase := .complete },
      linkClosed := true, subCmd := false, subFw := false }) ∧
    (S.cursor + 1 ≠ n → ∀ sector, S.sectors[S.cursor + 1]? = some sector → 7 ≤ s.unitSize →
      chunkCount sector.length (maxChunkPayload s.unitSize).toNat ≤ 256 → step s = .next { s with
        inputs := rest, fwQueue := q, reports := s.reports ++ [p],
        session := some { S with cursor := S.cursor + 1, phase := .uploadingSector },
        jobs := chunkJobs sector (maxChunkPayload s.unitSize).toNat (sectorTag (S.cursor + 1) sector) }) ∧
    (S.cursor + 1 ≠ n → ∀ sector, S.sectors[S.cursor + 1]? = some sector → 7 ≤ s.unitSize →
      256 < chunkCount sector.length (maxChunkPayload s.unitSize).toNat → step s = .refused .tooManyChunks)

/-- Corruption resends the same sector, a sector error redirects, any other status aborts.
The model's own are one record per turn (log entry 13), the end of both subscriptions when the transport is closed
(log entry 16) and the forms of the stops on a bad target and on too many chunks (log entry 8); that no count caps
the resends is the reference default (U8, log entry 18), and that with no record the host goes on waiting without
end, in turns that take the event and change nothing else, is the reference default (R147, U7) as the model reads it
(log entry 18).
Derived: 43_host_sequences.md R158, 43_host_sequences.md R159, 43_host_sequences.md R160, 70_reset_and_hazards.md
R200, 43_host_sequences.md R141, 43_host_sequences.md R147, 93_implementation_defined.md U7,
93_implementation_defined.md U8, log entries 8, 13, 16, 18. -/
def Obligations.SectorErrorsResendRedirectAbort : Prop :=
  ∀ (s : State) (S : Session) (rest : List Input), s.inputs = .turn :: rest → s.jobs = [] → s.session = some S →
    S.phase = .awaitingSectorAck →
    (s.fwQueue = [] → step s = .next { s with inputs := rest }) ∧
    (∀ r q, s.fwQueue = r :: q →
      (r.status = 0x0001 ∨ r.status = 0x0003 ∨ r.status = 0xFFFF → ∀ sector, S.sectors[S.cursor]? = some sector →
        7 ≤ s.unitSize → chunkCount sector.length (maxChunkPayload s.unitSize).toNat ≤ 256 → step s = .next { s with
          inputs := rest, fwQueue := q, session := some { S with phase := .uploadingSector },
          jobs := chunkJobs sector (maxChunkPayload s.unitSize).toNat (sectorTag S.cursor sector) }) ∧
      (r.status = 0x0002 → ∀ sector, S.sectors[r.currentSector.toNat]? = some sector → 7 ≤ s.unitSize →
        chunkCount sector.length (maxChunkPayload s.unitSize).toNat ≤ 256 → step s = .next { s with
          inputs := rest, fwQueue := q,
          session := some { S with cursor := r.currentSector.toNat, phase := .uploadingSector },
          jobs := chunkJobs sector (maxChunkPayload s.unitSize).toNat (sectorTag r.currentSector.toNat sector) }) ∧
      (r.status = 0x0002 → S.sectors.length ≤ r.currentSector.toNat → step s = .refused .targetOutOfRange) ∧
      (r.status = 0x0001 ∨ r.status = 0x0003 ∨ r.status = 0xFFFF → ∀ sector, S.sectors[S.cursor]? = some sector →
        7 ≤ s.unitSize → 256 < chunkCount sector.length (maxChunkPayload s.unitSize).toNat →
          step s = .refused .tooManyChunks) ∧
      (r.status = 0x0002 → ∀ sector, S.sectors[r.currentSector.toNat]? = some sector → 7 ≤ s.unitSize →
        256 < chunkCount sector.length (maxChunkPayload s.unitSize).toNat → step s = .refused .tooManyChunks) ∧
      (0x0004 ≤ r.status.toNat → r.status.toNat ≤ 0xFFFE → step s = .next { s with
        inputs := rest, fwQueue := q, session := some { S with phase := .aborted },
        reports := s.reports ++ [.unknownError], linkClosed := true, subCmd := false, subFw := false }))

/-- Losing the link aborts a live session, reports the error, and leaves a finished one as it is.
R161 gives the move to ABORTED and the report; the model's own are the end of both subscriptions and the chunks
given up (log entry 16), the same closing of the link on an exception that is no disconnection, and a finished
session left alone (log entry 32).
Derived: 43_host_sequences.md R161, 43_host_sequences.md R149, log entries 16, 32. -/
def Obligations.LinkLossAbortsLiveSession : Prop :=
  ∀ (s : State) (rest : List Input), s.inputs = .disconnect :: rest →
    (∀ S, s.session = some S → sessionLive s = true → step s = .next { s with
      inputs := rest, jobs := [], session := some { S with phase := .aborted },
      reports := s.reports ++ [.transportError], linkClosed := true, subCmd := false, subFw := false }) ∧
    (sessionLive s = false → step s = .next { s with
      inputs := rest, jobs := [], linkClosed := true, subCmd := false, subFw := false })

/-- The machine's invariant holds right after reset.
R190 and R25 give the status fields; the unit size 23, no session and nothing to send at reset are the model's: log
entry 11.
Derived: 70_reset_and_hazards.md R190, 10_state.md R25, log entry 11. -/
def Obligations.InvariantHoldsAtReset : Prop :=
  Inv State.reset

/-- Every step keeps the machine's invariant.
That the segmentation is whole once the Start Command is out is the model's reading of the order (log entry 13),
that a reset leaves the host's state is the model's (log entry 23), and that the host is subscribed from the opening
on is its choice (log entry 33).
Derived: 10_state.md R25, 60_exceptions.md R173, 43_host_sequences.md R137, 43_host_sequences.md R140,
43_host_sequences.md R148, 43_host_sequences.md R149, 43_host_sequences.md R139, 43_host_sequences.md R143,
70_reset_and_hazards.md R192, log entries 13, 23, 33. -/
def Obligations.InvariantKeptByEveryStep : Prop :=
  ∀ s t : State, Inv s → step s = .next t → Inv t

/-- The state machine and the dispatcher never make the block refuse an issue.
Derived: 43_host_sequences.md R140, 60_exceptions.md R172, 10_state.md R24. -/
def Obligations.HostMovesAreNeverRefused : Prop :=
  ∀ (s t : State) (e : Input) (rest : List Input), Inv s → s.inputs = e :: rest →
    (e = .turn ∨ (∃ m, e = .wire .cmdAck m) ∨ (∃ m, e = .wire .sectorAck m)) → step s = .next t →
    t.stErr = s.stErr ∧ t.stEcode = s.stEcode ∧
    ∃ cs, t.completions = s.completions ++ cs ∧ ∀ c ∈ cs, ∃ out, c = .done out

/-- COMPLETE and ABORTED are final: with nothing left to send a turn does nothing there, and only opening a session
replaces one.
R149 says that the two states are final; what a turn is (log entry 13), that a new session may follow a final one
(log entry 12), that a reset of the block leaves the host's session as it is (log entry 23), and that R161's move at
any state spares a final one (log entry 32) are the model's.
Derived: 43_host_sequences.md R149, 43_host_sequences.md R148, 43_host_sequences.md R161, log entries 12, 13, 23, 32. -/
def Obligations.FinalSessionsStay : Prop :=
  (∀ (s : State) (rest : List Input), s.inputs = .turn :: rest → s.jobs = [] → sessionLive s = false →
    step s = .next { s with inputs := rest }) ∧
  (∀ (S : Session) (s : State), s.session = some S →
    (sessionLive s = false ↔ S.phase = .complete ∨ S.phase = .aborted)) ∧
  (∀ s : State, s.session = none → sessionLive s = false) ∧
  (∀ s t : State, sessionLive s = false → (∀ image u, s.inputs.head? ≠ some (.openSession image u)) →
    step s = .next t → t.session = s.session) ∧
  (∀ (s : State) (image : Msg) (u : Nat) (rest : List Input), s.inputs = .openSession image u :: rest →
    sessionLive s = false → image ≠ [] → 7 ≤ u → image.length < 4294967296 → sectorCount image ≤ 65535 →
    ∃ t, step s = .next t ∧ t.session = some { image := image, sectors := [], cursor := 0, phase := .init })
end

