-- ==== Sys2Proof/Laws/Operands.lean ====
section
/-! SUPPORT. What the message operands do: little-endian reads and writes, slices, and the byte images of the wire
structures. -/

namespace Sys2Proof

@[simp] theorem le16_length (v : Word16) : (le16 v).length = 2 := rfl
@[simp] theorem le32_length (v : BitVec 32) : (le32 v).length = 4 := rfl
@[simp] theorem zeros_length (n : Nat) : (zeros n).length = n := by simp [zeros]
@[simp] theorem leBytes_length (n v : Nat) : (leBytes n v).length = n := by
  induction n generalizing v with
  | zero => rfl
  | succ n ih => simp [leBytes, ih]

/-- `MemWrite` inside a message keeps its length. -/
theorem memWrite_length (m : Msg) (o n v : Nat) (h : o + n ≤ m.length) : (memWrite m o n v).length = m.length := by
  simp [memWrite]
  omega

/-- The two bytes of a 16-bit value, read back little-endian, are the value. -/
theorem leNat_le16 (v : Word16) : leNat (le16 v) = v.toNat := by
  have h := v.isLt
  simp [leNat, le16, BitVec.extractLsb'_toNat, Nat.shiftRight_eq_div_pow]
  omega

/-- The four bytes of a 32-bit value, read back little-endian, are the value. -/
theorem leNat_le32 (v : BitVec 32) : leNat (le32 v) = v.toNat := by
  have h := v.isLt
  simp [leNat, le32, BitVec.extractLsb'_toNat, Nat.shiftRight_eq_div_pow]
  omega

/-- The two-byte little-endian image of a number is `le16` of it. -/
theorem leBytes_two (v : Word16) : leBytes 2 v.toNat = le16 v := by
  simp only [leBytes, le16, List.cons.injEq, and_true]
  refine ⟨?_, ?_⟩ <;> apply BitVec.eq_of_toNat_eq <;>
    simp [BitVec.extractLsb'_toNat, Nat.shiftRight_eq_div_pow]

/-- The four-byte little-endian image of a number is `le32` of it. -/
theorem leBytes_four (v : BitVec 32) : leBytes 4 v.toNat = le32 v := by
  simp only [leBytes, le32, List.cons.injEq, and_true]
  refine ⟨?_, ?_, ?_, ?_⟩ <;> apply BitVec.eq_of_toNat_eq <;>
    simp [BitVec.extractLsb'_toNat, Nat.shiftRight_eq_div_pow, Nat.div_div_eq_div_mul]

/-- A slice that stands between two parts of a message is the part between them. -/
theorem slice_between (x y z : List α) (i j : Nat) (hi : x.length = i) (hj : i + y.length = j) :
    slice (x ++ y ++ z) i j = y := by
  subst hi
  simp [slice, ← hj]

/-- A 16-bit field written at its offset is read back. -/
theorem field16_between (x z : Msg) (v : Word16) (o : Nat) (h : x.length = o) : field16 (x ++ le16 v ++ z) o = v := by
  rw [field16, memRead, slice_between x (le16 v) z o (o + 2) h (by simp), leNat_le16]
  simp

/-- A 32-bit field written at its offset is read back. -/
theorem field32_between (x z : Msg) (v : BitVec 32) (o : Nat) (h : x.length = o) :
    field32 (x ++ le32 v ++ z) o = v := by
  rw [field32, memRead, slice_between x (le32 v) z o (o + 4) h (by simp), leNat_le32]
  simp

/-- The slices of a message that meet give it back. -/
theorem take_append_slice (m : List α) (i j : Nat) (h : i ≤ j) : m.take i ++ slice m i j = m.take j := by
  have : j = i + (j - i) := by omega
  rw [this, List.take_add, slice]
  simp

@[simp] theorem slice_length (m : List α) (i j : Nat) : (slice m i j).length = min (j - i) (m.length - i) := by
  simp [slice]

/-- A whole message is a slice of itself. -/
theorem slice_self (m : List α) : slice m 0 m.length = m := by simp [slice]

@[simp] theorem startCmdBytes_length (size : BitVec 32) (t : Word16) : (startCmdBytes size t).length = 20 := by
  simp [startCmdBytes, Params.frameRsvdLen]

theorem ackBytes_length (a b c : Word16) (r : Msg) (t : Word16) : (ackBytes a b c r t).length = 8 + r.length := by
  simp [ackBytes]; omega

@[simp] theorem chunkBytes_length (tag : Word16) (seq : Byte) (p : Msg) :
    (chunkBytes tag seq p).length = 3 + p.length := by
  simp [chunkBytes]; omega

@[simp] theorem sectorBytes_length (p : Msg) (t : Word16) : (sectorBytes p t).length = p.length + 2 := by
  simp [sectorBytes]

/-- Two bytes are the little-endian image of the field they hold. -/
theorem le16_field16 (m : Msg) (o : Nat) (h : o + 2 ≤ m.length) : le16 (field16 m o) = slice m o (o + 2) := by
  have hl : (slice m o (o + 2)).length = 2 := by simp; omega
  simp only [field16, memRead]
  generalize slice m o (o + 2) = x at *
  match x, hl with
  | [a, b], _ =>
    have ha := a.isLt
    have hb := b.isLt
    simp only [le16, leNat, List.cons.injEq, and_true]
    refine ⟨?_, ?_⟩ <;> apply BitVec.eq_of_toNat_eq <;>
      simp only [BitVec.extractLsb'_toNat, BitVec.toNat_ofNat, Nat.shiftRight_eq_div_pow] <;> omega

/-- Four bytes are the little-endian image of the field they hold. -/
theorem le32_field32 (m : Msg) (o : Nat) (h : o + 4 ≤ m.length) : le32 (field32 m o) = slice m o (o + 4) := by
  have hl : (slice m o (o + 4)).length = 4 := by simp; omega
  simp only [field32, memRead]
  generalize slice m o (o + 4) = x at *
  match x, hl with
  | [a, b, c, d], _ =>
    have ha := a.isLt
    have hb := b.isLt
    have hc := c.isLt
    have hd := d.isLt
    simp only [le32, leNat, List.cons.injEq, and_true]
    refine ⟨?_, ?_, ?_, ?_⟩ <;> apply BitVec.eq_of_toNat_eq <;>
      simp only [BitVec.extractLsb'_toNat, BitVec.toNat_ofNat, Nat.shiftRight_eq_div_pow] <;> omega

theorem slice_append_slice (m : List α) (i j k : Nat) (hij : i ≤ j) (hjk : j ≤ k) :
    slice m i j ++ slice m j k = slice m i k := by
  have h1 : k - i = (j - i) + (k - j) := by omega
  have h2 : j = i + (j - i) := by omega
  simp only [slice, h1, List.take_add, List.drop_drop]
  rw [← h2]

/-- A 20-byte message is the byte image of its own fields. -/
theorem ackBytes_fields (m : Msg) (h : m.length = 20) :
    ackBytes (field16 m 0) (field16 m 2) (field16 m 4) (slice m 6 18) (field16 m 18) = m := by
  simp only [ackBytes]
  rw [le16_field16 m 0 (by omega), le16_field16 m 2 (by omega), le16_field16 m 4 (by omega),
    le16_field16 m 18 (by omega), slice_append_slice m 0 2 4 (by omega) (by omega),
    slice_append_slice m 0 4 6 (by omega) (by omega), slice_append_slice m 0 6 18 (by omega) (by omega),
    slice_append_slice m 0 18 20 (by omega) (by omega)]
  rw [show (20 : Nat) = m.length from h.symm, slice_self]

/-- The fields of an acknowledgement's byte image. -/
theorem fields_ackBytes (a b c r : Word16) (res : Msg) (h : res.length = 12) :
    field16 (ackBytes a b c res r) 0 = a ∧ field16 (ackBytes a b c res r) 2 = b ∧ field16 (ackBytes a b c res r) 4 = c ∧
    field16 (ackBytes a b c res r) 18 = r ∧ slice (ackBytes a b c res r) 0 18 = le16 a ++ le16 b ++ le16 c ++ res ∧
    slice (ackBytes a b c res r) 6 18 = res := by
  refine ⟨?_, ?_, ?_, ?_, ?_, ?_⟩
  · simpa [ackBytes] using field16_between [] (le16 b ++ le16 c ++ res ++ le16 r) a 0 rfl
  · simpa [ackBytes] using field16_between (le16 a) (le16 c ++ res ++ le16 r) b 2 rfl
  · simpa [ackBytes] using field16_between (le16 a ++ le16 b) (res ++ le16 r) c 4 rfl
  · simpa [ackBytes] using field16_between (le16 a ++ le16 b ++ le16 c ++ res) [] r 18 (by simp [h])
  · simpa [ackBytes] using slice_between [] (le16 a ++ le16 b ++ le16 c ++ res) (le16 r) 0 18 rfl (by simp [h])
  · simpa [ackBytes] using slice_between (le16 a ++ le16 b ++ le16 c) res (le16 r) 6 18 rfl (by simp [h])

end Sys2Proof
end

