-- ==== Sys2Proof/Laws/Encoding.lean ====
section
/-! SUPPORT. The fields of command words, and which operation a code spells (spec/30_encoding.md R60 to R63). -/

namespace Sys2Proof

/-- Two bit vectors put together, as a number. -/
theorem append_toNat (x : BitVec n) (y : BitVec m) : (x ++ y).toNat = x.toNat * 2 ^ m + y.toNat := by
  rw [BitVec.toNat_append, Nat.shiftLeft_eq, Nat.mul_comm, ← Nat.two_pow_add_eq_or_of_lt y.isLt]

theorem makeWord_toNat (o : Op) (arg : BitVec 32) :
    (makeWord o arg).toNat = (opCode o).toNat * 4294967296 + arg.toNat := by
  have := (opCode o).isLt
  have := arg.isLt
  simp only [makeWord, BitVec.toNat_setWidth, append_toNat]
  omega

@[simp] theorem opField_makeWord (o : Op) (arg : BitVec 32) : opField (makeWord o arg) = opCode o := by
  apply BitVec.eq_of_toNat_eq
  have := (opCode o).isLt
  have := arg.isLt
  simp only [opField, BitVec.extractLsb'_toNat, makeWord_toNat, Nat.shiftRight_eq_div_pow]
  omega

@[simp] theorem argField_makeWord (o : Op) (arg : BitVec 32) : argField (makeWord o arg) = arg := by
  apply BitVec.eq_of_toNat_eq
  have := (opCode o).isLt
  have := arg.isLt
  simp only [argField, BitVec.extractLsb'_toNat, makeWord_toNat, Nat.shiftRight_eq_div_pow]
  omega

/-- A command word is its code and its argument. -/
theorem makeWord_fields (o : Op) (cw : CmdWord) (h : opCode o = opField cw) : makeWord o (argField cw) = cw := by
  apply BitVec.eq_of_toNat_eq
  have := cw.isLt
  rw [makeWord_toNat, h]
  simp only [opField, argField, BitVec.extractLsb'_toNat, Nat.shiftRight_eq_div_pow]
  omega

@[simp] theorem opOf_opCode (o : Op) : opOf (opCode o) = some o := by cases o <;> rfl

theorem opCode_of_opOf (c : BitVec 8) (o : Op) (h : opOf c = some o) : opCode o = c := by
  simpa using List.find?_some h

theorem isOperation_assemble (o : Op) (arg : BitVec 32) : isOperation (assemble o arg) = true := by
  cases o <;> rfl

/-- What decodes from a command word is an operation, never a wire structure. -/
theorem isOperation_of_decodeWord (cw : CmdWord) (i : Instr) (h : decodeWord cw = .ok i) : isOperation i = true := by
  unfold decodeWord at h
  split at h
  · cases h
  · split at h
    · cases h
      exact isOperation_assemble _ _
    · cases h

/-- Decoding a word whose code spells an operation. -/
theorem decodeWord_of_opField (o : Op) (cw : CmdWord) (h : opField cw = opCode o) :
    decodeWord cw = if operandClean o (argField cw) then .ok (assemble o (argField cw)) else .error .badOperand := by
  simp only [decodeWord, h, opOf_opCode]

/-- A word put together from a code and an argument decodes as the code's operation, when its reserved bits are clean. -/
theorem decodeWord_makeWord (o : Op) (arg : BitVec 32) :
    decodeWord (makeWord o arg) = if operandClean o arg then .ok (assemble o arg) else .error .badOperand := by
  rw [decodeWord_of_opField o _ (opField_makeWord o arg), argField_makeWord]

/-! ## Frames: what each kind of byte sequence decodes to -/

theorem decodeWire_startCmd (m : Msg) :
    decodeWire .startCmd m = if m.length ≠ 20 then .error .wrongLength
      else if field16 m 0 ≠ 1 then .error .notStartCommand
      else if slice m 6 18 ≠ zeros 12 then .error .reservedNonzero
      else .ok (.frameStartCmd (field32 m 2) (field16 m 18)) := rfl

theorem decodeWire_cmdAck (m : Msg) :
    decodeWire .cmdAck m = if m.length ≠ 20 then .error .wrongLength else
      .ok (.frameCmdAck (field16 m 0) (field16 m 2) (field16 m 4) (slice m 6 18) (field16 m 18)) := rfl

theorem decodeWire_sectorAck (m : Msg) :
    decodeWire .sectorAck m = if m.length ≠ 20 then .error .wrongLength else
      .ok (.frameSectorAck (field16 m 0) (field16 m 2) (field16 m 4) (slice m 6 18) (field16 m 18)) := rfl

theorem decodeWire_chunk (m : Msg) :
    decodeWire .chunk m = if m.length < 4 ∨ 512 < m.length then .error .wrongLength else
      .ok (.frameChunk (field16 m 0) (field8 m 2) (m.drop 3)) := rfl

theorem decodeWire_sector (m : Msg) :
    decodeWire .sector m = if m.length < 3 ∨ 4098 < m.length then .error .wrongLength else
      .ok (.frameSector (m.take (m.length - 2)) (field16 m (m.length - 2))) := rfl

end Sys2Proof
end

