-- ==== Sys2Proof/Laws/Crc.lean ====
section
/-! SUPPORT. The small lemmas of the checksum functions (spec/40_crc.md R90 to R95). -/

namespace Sys2Proof

theorem crcRoundsN_add (n k : Nat) (a : Word16) : crcRoundsN (n + k) a = crcRoundsN k (crcRoundsN n a) := by
  induction n generalizing a with
  | zero => simp [crcRoundsN]
  | succ n ih => rw [Nat.succ_add]; exact ih (crcRound a)

@[simp] theorem crcFrom_nil (a : Word16) : crcFrom a [] = a := rfl

@[simp] theorem crcFrom_cons (a : Word16) (b : Byte) (m : Msg) : crcFrom a (b :: m) = crcFrom (crcByte a b) m := rfl

theorem crcFrom_append (a : Word16) (x y : Msg) : crcFrom a (x ++ y) = crcFrom (crcFrom a x) y := by
  simp [crcFrom]

/-- The checksum is the accumulator as it stands: start 0, nothing XORed in at the end. -/
theorem crc16_eq_crcFrom (m : Msg) : crc16 m = crcFrom 0 m := by
  simp [crc16, Params.crcXorOut, Params.crcInit]

end Sys2Proof
end

