-- ==== Sys2Proof/Laws/State.lean ====
section
/-! SUPPORT. One lemma per field per update, each true by rfl, so that no later proof unfolds a record update. -/

namespace Sys2Proof.Machine

/-! ## `takeInput` -/

@[simp] theorem takeInput_acc (s : State) :
    (takeInput s).acc = s.acc := rfl
@[simp] theorem takeInput_stEq (s : State) :
    (takeInput s).stEq = s.stEq := rfl
@[simp] theorem takeInput_stErr (s : State) :
    (takeInput s).stErr = s.stErr := rfl
@[simp] theorem takeInput_stEcode (s : State) :
    (takeInput s).stEcode = s.stEcode := rfl
@[simp] theorem takeInput_inputs (s : State) :
    (takeInput s).inputs = s.inputs.tail := rfl
@[simp] theorem takeInput_completions (s : State) :
    (takeInput s).completions = s.completions := rfl
@[simp] theorem takeInput_reads (s : State) :
    (takeInput s).reads = s.reads := rfl
@[simp] theorem takeInput_session (s : State) :
    (takeInput s).session = s.session := rfl
@[simp] theorem takeInput_jobs (s : State) :
    (takeInput s).jobs = s.jobs := rfl
@[simp] theorem takeInput_unitSize (s : State) :
    (takeInput s).unitSize = s.unitSize := rfl
@[simp] theorem takeInput_cmdQueue (s : State) :
    (takeInput s).cmdQueue = s.cmdQueue := rfl
@[simp] theorem takeInput_fwQueue (s : State) :
    (takeInput s).fwQueue = s.fwQueue := rfl
@[simp] theorem takeInput_subCmd (s : State) :
    (takeInput s).subCmd = s.subCmd := rfl
@[simp] theorem takeInput_subFw (s : State) :
    (takeInput s).subFw = s.subFw := rfl
@[simp] theorem takeInput_linkClosed (s : State) :
    (takeInput s).linkClosed = s.linkClosed := rfl
@[simp] theorem takeInput_writes (s : State) :
    (takeInput s).writes = s.writes := rfl
@[simp] theorem takeInput_reports (s : State) :
    (takeInput s).reports = s.reports := rfl
@[simp] theorem takeInput_freeIdx (s : State) :
    (takeInput s).freeIdx = s.freeIdx := rfl

/-! ## `present` -/

@[simp] theorem present_acc (i : Instr) (m : Msg) (s : State) :
    (present i m s).acc = s.acc := rfl
@[simp] theorem present_stEq (i : Instr) (m : Msg) (s : State) :
    (present i m s).stEq = s.stEq := rfl
@[simp] theorem present_stErr (i : Instr) (m : Msg) (s : State) :
    (present i m s).stErr = s.stErr := rfl
@[simp] theorem present_stEcode (i : Instr) (m : Msg) (s : State) :
    (present i m s).stEcode = s.stEcode := rfl
@[simp] theorem present_inputs (i : Instr) (m : Msg) (s : State) :
    (present i m s).inputs = .issue (commandWord i) m :: s.inputs.tail := rfl
@[simp] theorem present_completions (i : Instr) (m : Msg) (s : State) :
    (present i m s).completions = s.completions := rfl
@[simp] theorem present_reads (i : Instr) (m : Msg) (s : State) :
    (present i m s).reads = s.reads := rfl
@[simp] theorem present_session (i : Instr) (m : Msg) (s : State) :
    (present i m s).session = s.session := rfl
@[simp] theorem present_jobs (i : Instr) (m : Msg) (s : State) :
    (present i m s).jobs = s.jobs := rfl
@[simp] theorem present_unitSize (i : Instr) (m : Msg) (s : State) :
    (present i m s).unitSize = s.unitSize := rfl
@[simp] theorem present_cmdQueue (i : Instr) (m : Msg) (s : State) :
    (present i m s).cmdQueue = s.cmdQueue := rfl
@[simp] theorem present_fwQueue (i : Instr) (m : Msg) (s : State) :
    (present i m s).fwQueue = s.fwQueue := rfl
@[simp] theorem present_subCmd (i : Instr) (m : Msg) (s : State) :
    (present i m s).subCmd = s.subCmd := rfl
@[simp] theorem present_subFw (i : Instr) (m : Msg) (s : State) :
    (present i m s).subFw = s.subFw := rfl
@[simp] theorem present_linkClosed (i : Instr) (m : Msg) (s : State) :
    (present i m s).linkClosed = s.linkClosed := rfl
@[simp] theorem present_writes (i : Instr) (m : Msg) (s : State) :
    (present i m s).writes = s.writes := rfl
@[simp] theorem present_reports (i : Instr) (m : Msg) (s : State) :
    (present i m s).reports = s.reports := rfl
@[simp] theorem present_freeIdx (i : Instr) (m : Msg) (s : State) :
    (present i m s).freeIdx = s.freeIdx := rfl

/-! ## `emit` -/

@[simp] theorem emit_acc (out : Output) (s : State) :
    (emit out s).acc = s.acc := rfl
@[simp] theorem emit_stEq (out : Output) (s : State) :
    (emit out s).stEq = s.stEq := rfl
@[simp] theorem emit_stErr (out : Output) (s : State) :
    (emit out s).stErr = s.stErr := rfl
@[simp] theorem emit_stEcode (out : Output) (s : State) :
    (emit out s).stEcode = s.stEcode := rfl
@[simp] theorem emit_inputs (out : Output) (s : State) :
    (emit out s).inputs = s.inputs.tail := rfl
@[simp] theorem emit_completions (out : Output) (s : State) :
    (emit out s).completions = s.completions ++ [.done out] := rfl
@[simp] theorem emit_reads (out : Output) (s : State) :
    (emit out s).reads = s.reads := rfl
@[simp] theorem emit_session (out : Output) (s : State) :
    (emit out s).session = s.session := rfl
@[simp] theorem emit_jobs (out : Output) (s : State) :
    (emit out s).jobs = s.jobs := rfl
@[simp] theorem emit_unitSize (out : Output) (s : State) :
    (emit out s).unitSize = s.unitSize := rfl
@[simp] theorem emit_cmdQueue (out : Output) (s : State) :
    (emit out s).cmdQueue = s.cmdQueue := rfl
@[simp] theorem emit_fwQueue (out : Output) (s : State) :
    (emit out s).fwQueue = s.fwQueue := rfl
@[simp] theorem emit_subCmd (out : Output) (s : State) :
    (emit out s).subCmd = s.subCmd := rfl
@[simp] theorem emit_subFw (out : Output) (s : State) :
    (emit out s).subFw = s.subFw := rfl
@[simp] theorem emit_linkClosed (out : Output) (s : State) :
    (emit out s).linkClosed = s.linkClosed := rfl
@[simp] theorem emit_writes (out : Output) (s : State) :
    (emit out s).writes = s.writes := rfl
@[simp] theorem emit_reports (out : Output) (s : State) :
    (emit out s).reports = s.reports := rfl
@[simp] theorem emit_freeIdx (out : Output) (s : State) :
    (emit out s).freeIdx = s.freeIdx := rfl

/-! ## `refuse` -/

@[simp] theorem refuse_acc (c : RefusalCode) (s : State) :
    (refuse c s).acc = s.acc := rfl
@[simp] theorem refuse_stEq (c : RefusalCode) (s : State) :
    (refuse c s).stEq = s.stEq := rfl
@[simp] theorem refuse_stErr (c : RefusalCode) (s : State) :
    (refuse c s).stErr = true := rfl
@[simp] theorem refuse_stEcode (c : RefusalCode) (s : State) :
    (refuse c s).stEcode = if s.stErr then s.stEcode else refusalValue c := rfl
@[simp] theorem refuse_inputs (c : RefusalCode) (s : State) :
    (refuse c s).inputs = s.inputs.tail := rfl
@[simp] theorem refuse_completions (c : RefusalCode) (s : State) :
    (refuse c s).completions = s.completions ++ [.refused c] := rfl
@[simp] theorem refuse_reads (c : RefusalCode) (s : State) :
    (refuse c s).reads = s.reads := rfl
@[simp] theorem refuse_session (c : RefusalCode) (s : State) :
    (refuse c s).session = s.session := rfl
@[simp] theorem refuse_jobs (c : RefusalCode) (s : State) :
    (refuse c s).jobs = s.jobs := rfl
@[simp] theorem refuse_unitSize (c : RefusalCode) (s : State) :
    (refuse c s).unitSize = s.unitSize := rfl
@[simp] theorem refuse_cmdQueue (c : RefusalCode) (s : State) :
    (refuse c s).cmdQueue = s.cmdQueue := rfl
@[simp] theorem refuse_fwQueue (c : RefusalCode) (s : State) :
    (refuse c s).fwQueue = s.fwQueue := rfl
@[simp] theorem refuse_subCmd (c : RefusalCode) (s : State) :
    (refuse c s).subCmd = s.subCmd := rfl
@[simp] theorem refuse_subFw (c : RefusalCode) (s : State) :
    (refuse c s).subFw = s.subFw := rfl
@[simp] theorem refuse_linkClosed (c : RefusalCode) (s : State) :
    (refuse c s).linkClosed = s.linkClosed := rfl
@[simp] theorem refuse_writes (c : RefusalCode) (s : State) :
    (refuse c s).writes = s.writes := rfl
@[simp] theorem refuse_reports (c : RefusalCode) (s : State) :
    (refuse c s).reports = s.reports := rfl
@[simp] theorem refuse_freeIdx (c : RefusalCode) (s : State) :
    (refuse c s).freeIdx = s.freeIdx := rfl

/-! ## `writeEq` -/

@[simp] theorem writeEq_acc (v : Bool) (s : State) :
    (writeEq v s).acc = s.acc := rfl
@[simp] theorem writeEq_stEq (v : Bool) (s : State) :
    (writeEq v s).stEq = v := rfl
@[simp] theorem writeEq_stErr (v : Bool) (s : State) :
    (writeEq v s).stErr = s.stErr := rfl
@[simp] theorem writeEq_stEcode (v : Bool) (s : State) :
    (writeEq v s).stEcode = s.stEcode := rfl
@[simp] theorem writeEq_inputs (v : Bool) (s : State) :
    (writeEq v s).inputs = s.inputs := rfl
@[simp] theorem writeEq_completions (v : Bool) (s : State) :
    (writeEq v s).completions = s.completions := rfl
@[simp] theorem writeEq_reads (v : Bool) (s : State) :
    (writeEq v s).reads = s.reads := rfl
@[simp] theorem writeEq_session (v : Bool) (s : State) :
    (writeEq v s).session = s.session := rfl
@[simp] theorem writeEq_jobs (v : Bool) (s : State) :
    (writeEq v s).jobs = s.jobs := rfl
@[simp] theorem writeEq_unitSize (v : Bool) (s : State) :
    (writeEq v s).unitSize = s.unitSize := rfl
@[simp] theorem writeEq_cmdQueue (v : Bool) (s : State) :
    (writeEq v s).cmdQueue = s.cmdQueue := rfl
@[simp] theorem writeEq_fwQueue (v : Bool) (s : State) :
    (writeEq v s).fwQueue = s.fwQueue := rfl
@[simp] theorem writeEq_subCmd (v : Bool) (s : State) :
    (writeEq v s).subCmd = s.subCmd := rfl
@[simp] theorem writeEq_subFw (v : Bool) (s : State) :
    (writeEq v s).subFw = s.subFw := rfl
@[simp] theorem writeEq_linkClosed (v : Bool) (s : State) :
    (writeEq v s).linkClosed = s.linkClosed := rfl
@[simp] theorem writeEq_writes (v : Bool) (s : State) :
    (writeEq v s).writes = s.writes := rfl
@[simp] theorem writeEq_reports (v : Bool) (s : State) :
    (writeEq v s).reports = s.reports := rfl
@[simp] theorem writeEq_freeIdx (v : Bool) (s : State) :
    (writeEq v s).freeIdx = s.freeIdx := rfl

/-! ## `transportWrite` -/

@[simp] theorem transportWrite_acc (e : Endpoint) (m : Msg) (x : Bool) (s : State) :
    (transportWrite e m x s).acc = s.acc := rfl
@[simp] theorem transportWrite_stEq (e : Endpoint) (m : Msg) (x : Bool) (s : State) :
    (transportWrite e m x s).stEq = s.stEq := rfl
@[simp] theorem transportWrite_stErr (e : Endpoint) (m : Msg) (x : Bool) (s : State) :
    (transportWrite e m x s).stErr = s.stErr := rfl
@[simp] theorem transportWrite_stEcode (e : Endpoint) (m : Msg) (x : Bool) (s : State) :
    (transportWrite e m x s).stEcode = s.stEcode := rfl
@[simp] theorem transportWrite_inputs (e : Endpoint) (m : Msg) (x : Bool) (s : State) :
    (transportWrite e m x s).inputs = s.inputs := rfl
@[simp] theorem transportWrite_completions (e : Endpoint) (m : Msg) (x : Bool) (s : State) :
    (transportWrite e m x s).completions = s.completions := rfl
@[simp] theorem transportWrite_reads (e : Endpoint) (m : Msg) (x : Bool) (s : State) :
    (transportWrite e m x s).reads = s.reads := rfl
@[simp] theorem transportWrite_session (e : Endpoint) (m : Msg) (x : Bool) (s : State) :
    (transportWrite e m x s).session = s.session := rfl
@[simp] theorem transportWrite_jobs (e : Endpoint) (m : Msg) (x : Bool) (s : State) :
    (transportWrite e m x s).jobs = s.jobs := rfl
@[simp] theorem transportWrite_unitSize (e : Endpoint) (m : Msg) (x : Bool) (s : State) :
    (transportWrite e m x s).unitSize = s.unitSize := rfl
@[simp] theorem transportWrite_cmdQueue (e : Endpoint) (m : Msg) (x : Bool) (s : State) :
    (transportWrite e m x s).cmdQueue = s.cmdQueue := rfl
@[simp] theorem transportWrite_fwQueue (e : Endpoint) (m : Msg) (x : Bool) (s : State) :
    (transportWrite e m x s).fwQueue = s.fwQueue := rfl
@[simp] theorem transportWrite_subCmd (e : Endpoint) (m : Msg) (x : Bool) (s : State) :
    (transportWrite e m x s).subCmd = s.subCmd := rfl
@[simp] theorem transportWrite_subFw (e : Endpoint) (m : Msg) (x : Bool) (s : State) :
    (transportWrite e m x s).subFw = s.subFw := rfl
@[simp] theorem transportWrite_linkClosed (e : Endpoint) (m : Msg) (x : Bool) (s : State) :
    (transportWrite e m x s).linkClosed = s.linkClosed := rfl
@[simp] theorem transportWrite_writes (e : Endpoint) (m : Msg) (x : Bool) (s : State) :
    (transportWrite e m x s).writes = s.writes ++ [WireWrite.mk e m x] := rfl
@[simp] theorem transportWrite_reports (e : Endpoint) (m : Msg) (x : Bool) (s : State) :
    (transportWrite e m x s).reports = s.reports := rfl
@[simp] theorem transportWrite_freeIdx (e : Endpoint) (m : Msg) (x : Bool) (s : State) :
    (transportWrite e m x s).freeIdx = s.freeIdx := rfl

/-! ## `writeLast` -/

@[simp] theorem writeLast_acc (e : Endpoint) (x : Bool) (s : State) :
    (writeLast e x s).acc = s.acc := rfl
@[simp] theorem writeLast_stEq (e : Endpoint) (x : Bool) (s : State) :
    (writeLast e x s).stEq = s.stEq := rfl
@[simp] theorem writeLast_stErr (e : Endpoint) (x : Bool) (s : State) :
    (writeLast e x s).stErr = s.stErr := rfl
@[simp] theorem writeLast_stEcode (e : Endpoint) (x : Bool) (s : State) :
    (writeLast e x s).stEcode = s.stEcode := rfl
@[simp] theorem writeLast_inputs (e : Endpoint) (x : Bool) (s : State) :
    (writeLast e x s).inputs = s.inputs := rfl
@[simp] theorem writeLast_completions (e : Endpoint) (x : Bool) (s : State) :
    (writeLast e x s).completions = s.completions := rfl
@[simp] theorem writeLast_reads (e : Endpoint) (x : Bool) (s : State) :
    (writeLast e x s).reads = s.reads := rfl
@[simp] theorem writeLast_session (e : Endpoint) (x : Bool) (s : State) :
    (writeLast e x s).session = s.session := rfl
@[simp] theorem writeLast_jobs (e : Endpoint) (x : Bool) (s : State) :
    (writeLast e x s).jobs = s.jobs := rfl
@[simp] theorem writeLast_unitSize (e : Endpoint) (x : Bool) (s : State) :
    (writeLast e x s).unitSize = s.unitSize := rfl
@[simp] theorem writeLast_cmdQueue (e : Endpoint) (x : Bool) (s : State) :
    (writeLast e x s).cmdQueue = s.cmdQueue := rfl
@[simp] theorem writeLast_fwQueue (e : Endpoint) (x : Bool) (s : State) :
    (writeLast e x s).fwQueue = s.fwQueue := rfl
@[simp] theorem writeLast_subCmd (e : Endpoint) (x : Bool) (s : State) :
    (writeLast e x s).subCmd = s.subCmd := rfl
@[simp] theorem writeLast_subFw (e : Endpoint) (x : Bool) (s : State) :
    (writeLast e x s).subFw = s.subFw := rfl
@[simp] theorem writeLast_linkClosed (e : Endpoint) (x : Bool) (s : State) :
    (writeLast e x s).linkClosed = s.linkClosed := rfl
@[simp] theorem writeLast_writes (e : Endpoint) (x : Bool) (s : State) :
    (writeLast e x s).writes = s.writes ++ (lastBytes s).toList.map (fun m => WireWrite.mk e m x) := rfl
@[simp] theorem writeLast_reports (e : Endpoint) (x : Bool) (s : State) :
    (writeLast e x s).reports = s.reports := rfl
@[simp] theorem writeLast_freeIdx (e : Endpoint) (x : Bool) (s : State) :
    (writeLast e x s).freeIdx = s.freeIdx := rfl

/-! ## `closeTransport` -/

@[simp] theorem closeTransport_acc (s : State) :
    (closeTransport s).acc = s.acc := rfl
@[simp] theorem closeTransport_stEq (s : State) :
    (closeTransport s).stEq = s.stEq := rfl
@[simp] theorem closeTransport_stErr (s : State) :
    (closeTransport s).stErr = s.stErr := rfl
@[simp] theorem closeTransport_stEcode (s : State) :
    (closeTransport s).stEcode = s.stEcode := rfl
@[simp] theorem closeTransport_inputs (s : State) :
    (closeTransport s).inputs = s.inputs := rfl
@[simp] theorem closeTransport_completions (s : State) :
    (closeTransport s).completions = s.completions := rfl
@[simp] theorem closeTransport_reads (s : State) :
    (closeTransport s).reads = s.reads := rfl
@[simp] theorem closeTransport_session (s : State) :
    (closeTransport s).session = s.session := rfl
@[simp] theorem closeTransport_jobs (s : State) :
    (closeTransport s).jobs = s.jobs := rfl
@[simp] theorem closeTransport_unitSize (s : State) :
    (closeTransport s).unitSize = s.unitSize := rfl
@[simp] theorem closeTransport_cmdQueue (s : State) :
    (closeTransport s).cmdQueue = s.cmdQueue := rfl
@[simp] theorem closeTransport_fwQueue (s : State) :
    (closeTransport s).fwQueue = s.fwQueue := rfl
@[simp] theorem closeTransport_subCmd (s : State) :
    (closeTransport s).subCmd = false := rfl
@[simp] theorem closeTransport_subFw (s : State) :
    (closeTransport s).subFw = false := rfl
@[simp] theorem closeTransport_linkClosed (s : State) :
    (closeTransport s).linkClosed = true := rfl
@[simp] theorem closeTransport_writes (s : State) :
    (closeTransport s).writes = s.writes := rfl
@[simp] theorem closeTransport_reports (s : State) :
    (closeTransport s).reports = s.reports := rfl
@[simp] theorem closeTransport_freeIdx (s : State) :
    (closeTransport s).freeIdx = s.freeIdx := rfl

/-! ## `report` -/

@[simp] theorem report_acc (r : Report) (s : State) :
    (report r s).acc = s.acc := rfl
@[simp] theorem report_stEq (r : Report) (s : State) :
    (report r s).stEq = s.stEq := rfl
@[simp] theorem report_stErr (r : Report) (s : State) :
    (report r s).stErr = s.stErr := rfl
@[simp] theorem report_stEcode (r : Report) (s : State) :
    (report r s).stEcode = s.stEcode := rfl
@[simp] theorem report_inputs (r : Report) (s : State) :
    (report r s).inputs = s.inputs := rfl
@[simp] theorem report_completions (r : Report) (s : State) :
    (report r s).completions = s.completions := rfl
@[simp] theorem report_reads (r : Report) (s : State) :
    (report r s).reads = s.reads := rfl
@[simp] theorem report_session (r : Report) (s : State) :
    (report r s).session = s.session := rfl
@[simp] theorem report_jobs (r : Report) (s : State) :
    (report r s).jobs = s.jobs := rfl
@[simp] theorem report_unitSize (r : Report) (s : State) :
    (report r s).unitSize = s.unitSize := rfl
@[simp] theorem report_cmdQueue (r : Report) (s : State) :
    (report r s).cmdQueue = s.cmdQueue := rfl
@[simp] theorem report_fwQueue (r : Report) (s : State) :
    (report r s).fwQueue = s.fwQueue := rfl
@[simp] theorem report_subCmd (r : Report) (s : State) :
    (report r s).subCmd = s.subCmd := rfl
@[simp] theorem report_subFw (r : Report) (s : State) :
    (report r s).subFw = s.subFw := rfl
@[simp] theorem report_linkClosed (r : Report) (s : State) :
    (report r s).linkClosed = s.linkClosed := rfl
@[simp] theorem report_writes (r : Report) (s : State) :
    (report r s).writes = s.writes := rfl
@[simp] theorem report_reports (r : Report) (s : State) :
    (report r s).reports = s.reports ++ [r] := rfl
@[simp] theorem report_freeIdx (r : Report) (s : State) :
    (report r s).freeIdx = s.freeIdx := rfl

/-! ## `deliverCack` -/

@[simp] theorem deliverCack_acc (r : CackRecord) (s : State) :
    (deliverCack r s).acc = s.acc := rfl
@[simp] theorem deliverCack_stEq (r : CackRecord) (s : State) :
    (deliverCack r s).stEq = s.stEq := rfl
@[simp] theorem deliverCack_stErr (r : CackRecord) (s : State) :
    (deliverCack r s).stErr = s.stErr := rfl
@[simp] theorem deliverCack_stEcode (r : CackRecord) (s : State) :
    (deliverCack r s).stEcode = s.stEcode := rfl
@[simp] theorem deliverCack_inputs (r : CackRecord) (s : State) :
    (deliverCack r s).inputs = s.inputs := rfl
@[simp] theorem deliverCack_completions (r : CackRecord) (s : State) :
    (deliverCack r s).completions = s.completions := rfl
@[simp] theorem deliverCack_reads (r : CackRecord) (s : State) :
    (deliverCack r s).reads = s.reads := rfl
@[simp] theorem deliverCack_session (r : CackRecord) (s : State) :
    (deliverCack r s).session = s.session := rfl
@[simp] theorem deliverCack_jobs (r : CackRecord) (s : State) :
    (deliverCack r s).jobs = s.jobs := rfl
@[simp] theorem deliverCack_unitSize (r : CackRecord) (s : State) :
    (deliverCack r s).unitSize = s.unitSize := rfl
@[simp] theorem deliverCack_cmdQueue (r : CackRecord) (s : State) :
    (deliverCack r s).cmdQueue = if awaitsCack s then s.cmdQueue ++ [r] else applyFate (Config.unawaitedFate s.freeIdx) s.cmdQueue r := rfl
@[simp] theorem deliverCack_fwQueue (r : CackRecord) (s : State) :
    (deliverCack r s).fwQueue = s.fwQueue := rfl
@[simp] theorem deliverCack_subCmd (r : CackRecord) (s : State) :
    (deliverCack r s).subCmd = s.subCmd := rfl
@[simp] theorem deliverCack_subFw (r : CackRecord) (s : State) :
    (deliverCack r s).subFw = s.subFw := rfl
@[simp] theorem deliverCack_linkClosed (r : CackRecord) (s : State) :
    (deliverCack r s).linkClosed = s.linkClosed := rfl
@[simp] theorem deliverCack_writes (r : CackRecord) (s : State) :
    (deliverCack r s).writes = s.writes := rfl
@[simp] theorem deliverCack_reports (r : CackRecord) (s : State) :
    (deliverCack r s).reports = s.reports := rfl
@[simp] theorem deliverCack_freeIdx (r : CackRecord) (s : State) :
    (deliverCack r s).freeIdx = if awaitsCack s then s.freeIdx else s.freeIdx + 1 := rfl

/-! ## `deliverFack` -/

@[simp] theorem deliverFack_acc (r : FackRecord) (s : State) :
    (deliverFack r s).acc = s.acc := rfl
@[simp] theorem deliverFack_stEq (r : FackRecord) (s : State) :
    (deliverFack r s).stEq = s.stEq := rfl
@[simp] theorem deliverFack_stErr (r : FackRecord) (s : State) :
    (deliverFack r s).stErr = s.stErr := rfl
@[simp] theorem deliverFack_stEcode (r : FackRecord) (s : State) :
    (deliverFack r s).stEcode = s.stEcode := rfl
@[simp] theorem deliverFack_inputs (r : FackRecord) (s : State) :
    (deliverFack r s).inputs = s.inputs := rfl
@[simp] theorem deliverFack_completions (r : FackRecord) (s : State) :
    (deliverFack r s).completions = s.completions := rfl
@[simp] theorem deliverFack_reads (r : FackRecord) (s : State) :
    (deliverFack r s).reads = s.reads := rfl
@[simp] theorem deliverFack_session (r : FackRecord) (s : State) :
    (deliverFack r s).session = s.session := rfl
@[simp] theorem deliverFack_jobs (r : FackRecord) (s : State) :
    (deliverFack r s).jobs = s.jobs := rfl
@[simp] theorem deliverFack_unitSize (r : FackRecord) (s : State) :
    (deliverFack r s).unitSize = s.unitSize := rfl
@[simp] theorem deliverFack_cmdQueue (r : FackRecord) (s : State) :
    (deliverFack r s).cmdQueue = s.cmdQueue := rfl
@[simp] theorem deliverFack_fwQueue (r : FackRecord) (s : State) :
    (deliverFack r s).fwQueue = if awaitsFack s then s.fwQueue ++ [r] else applyFate (Config.unawaitedFate s.freeIdx) s.fwQueue r := rfl
@[simp] theorem deliverFack_subCmd (r : FackRecord) (s : State) :
    (deliverFack r s).subCmd = s.subCmd := rfl
@[simp] theorem deliverFack_subFw (r : FackRecord) (s : State) :
    (deliverFack r s).subFw = s.subFw := rfl
@[simp] theorem deliverFack_linkClosed (r : FackRecord) (s : State) :
    (deliverFack r s).linkClosed = s.linkClosed := rfl
@[simp] theorem deliverFack_writes (r : FackRecord) (s : State) :
    (deliverFack r s).writes = s.writes := rfl
@[simp] theorem deliverFack_reports (r : FackRecord) (s : State) :
    (deliverFack r s).reports = s.reports := rfl
@[simp] theorem deliverFack_freeIdx (r : FackRecord) (s : State) :
    (deliverFack r s).freeIdx = if awaitsFack s then s.freeIdx else s.freeIdx + 1 := rfl

/-! ## `sectorSent` -/

@[simp] theorem sectorSent_acc (s : State) :
    (sectorSent s).acc = s.acc := rfl
@[simp] theorem sectorSent_stEq (s : State) :
    (sectorSent s).stEq = s.stEq := rfl
@[simp] theorem sectorSent_stErr (s : State) :
    (sectorSent s).stErr = s.stErr := rfl
@[simp] theorem sectorSent_stEcode (s : State) :
    (sectorSent s).stEcode = s.stEcode := rfl
@[simp] theorem sectorSent_inputs (s : State) :
    (sectorSent s).inputs = s.inputs := rfl
@[simp] theorem sectorSent_completions (s : State) :
    (sectorSent s).completions = s.completions := rfl
@[simp] theorem sectorSent_reads (s : State) :
    (sectorSent s).reads = s.reads := rfl
@[simp] theorem sectorSent_session (s : State) :
    (sectorSent s).session = s.session.map uploaded := rfl
@[simp] theorem sectorSent_jobs (s : State) :
    (sectorSent s).jobs = s.jobs := rfl
@[simp] theorem sectorSent_unitSize (s : State) :
    (sectorSent s).unitSize = s.unitSize := rfl
@[simp] theorem sectorSent_cmdQueue (s : State) :
    (sectorSent s).cmdQueue = s.cmdQueue := rfl
@[simp] theorem sectorSent_fwQueue (s : State) :
    (sectorSent s).fwQueue = s.fwQueue := rfl
@[simp] theorem sectorSent_subCmd (s : State) :
    (sectorSent s).subCmd = s.subCmd := rfl
@[simp] theorem sectorSent_subFw (s : State) :
    (sectorSent s).subFw = s.subFw := rfl
@[simp] theorem sectorSent_linkClosed (s : State) :
    (sectorSent s).linkClosed = s.linkClosed := rfl
@[simp] theorem sectorSent_writes (s : State) :
    (sectorSent s).writes = s.writes := rfl
@[simp] theorem sectorSent_reports (s : State) :
    (sectorSent s).reports = s.reports := rfl
@[simp] theorem sectorSent_freeIdx (s : State) :
    (sectorSent s).freeIdx = s.freeIdx := rfl

/-! ## `resetBlock` -/

@[simp] theorem resetBlock_acc (s : State) :
    (resetBlock s).acc = 0x0000 := rfl
@[simp] theorem resetBlock_stEq (s : State) :
    (resetBlock s).stEq = false := rfl
@[simp] theorem resetBlock_stErr (s : State) :
    (resetBlock s).stErr = false := rfl
@[simp] theorem resetBlock_stEcode (s : State) :
    (resetBlock s).stEcode = 0 := rfl
@[simp] theorem resetBlock_inputs (s : State) :
    (resetBlock s).inputs = s.inputs.tail := rfl
@[simp] theorem resetBlock_completions (s : State) :
    (resetBlock s).completions = s.completions := rfl
@[simp] theorem resetBlock_reads (s : State) :
    (resetBlock s).reads = s.reads := rfl
@[simp] theorem resetBlock_session (s : State) :
    (resetBlock s).session = s.session := rfl
@[simp] theorem resetBlock_jobs (s : State) :
    (resetBlock s).jobs = s.jobs := rfl
@[simp] theorem resetBlock_unitSize (s : State) :
    (resetBlock s).unitSize = s.unitSize := rfl
@[simp] theorem resetBlock_cmdQueue (s : State) :
    (resetBlock s).cmdQueue = s.cmdQueue := rfl
@[simp] theorem resetBlock_fwQueue (s : State) :
    (resetBlock s).fwQueue = s.fwQueue := rfl
@[simp] theorem resetBlock_subCmd (s : State) :
    (resetBlock s).subCmd = s.subCmd := rfl
@[simp] theorem resetBlock_subFw (s : State) :
    (resetBlock s).subFw = s.subFw := rfl
@[simp] theorem resetBlock_linkClosed (s : State) :
    (resetBlock s).linkClosed = s.linkClosed := rfl
@[simp] theorem resetBlock_writes (s : State) :
    (resetBlock s).writes = s.writes := rfl
@[simp] theorem resetBlock_reports (s : State) :
    (resetBlock s).reports = s.reports := rfl
@[simp] theorem resetBlock_freeIdx (s : State) :
    (resetBlock s).freeIdx = s.freeIdx := rfl

/-! ## `abortSession` -/

@[simp] theorem abortSession_acc (why : Report) (S : Session) (s : State) :
    (abortSession why S s).acc = s.acc := rfl
@[simp] theorem abortSession_stEq (why : Report) (S : Session) (s : State) :
    (abortSession why S s).stEq = s.stEq := rfl
@[simp] theorem abortSession_stErr (why : Report) (S : Session) (s : State) :
    (abortSession why S s).stErr = s.stErr := rfl
@[simp] theorem abortSession_stEcode (why : Report) (S : Session) (s : State) :
    (abortSession why S s).stEcode = s.stEcode := rfl
@[simp] theorem abortSession_inputs (why : Report) (S : Session) (s : State) :
    (abortSession why S s).inputs = s.inputs := rfl
@[simp] theorem abortSession_completions (why : Report) (S : Session) (s : State) :
    (abortSession why S s).completions = s.completions := rfl
@[simp] theorem abortSession_reads (why : Report) (S : Session) (s : State) :
    (abortSession why S s).reads = s.reads := rfl
@[simp] theorem abortSession_session (why : Report) (S : Session) (s : State) :
    (abortSession why S s).session = some { S with phase := .aborted } := rfl
@[simp] theorem abortSession_jobs (why : Report) (S : Session) (s : State) :
    (abortSession why S s).jobs = s.jobs := rfl
@[simp] theorem abortSession_unitSize (why : Report) (S : Session) (s : State) :
    (abortSession why S s).unitSize = s.unitSize := rfl
@[simp] theorem abortSession_cmdQueue (why : Report) (S : Session) (s : State) :
    (abortSession why S s).cmdQueue = s.cmdQueue := rfl
@[simp] theorem abortSession_fwQueue (why : Report) (S : Session) (s : State) :
    (abortSession why S s).fwQueue = s.fwQueue := rfl
@[simp] theorem abortSession_subCmd (why : Report) (S : Session) (s : State) :
    (abortSession why S s).subCmd = false := rfl
@[simp] theorem abortSession_subFw (why : Report) (S : Session) (s : State) :
    (abortSession why S s).subFw = false := rfl
@[simp] theorem abortSession_linkClosed (why : Report) (S : Session) (s : State) :
    (abortSession why S s).linkClosed = true := rfl
@[simp] theorem abortSession_writes (why : Report) (S : Session) (s : State) :
    (abortSession why S s).writes = s.writes := rfl
@[simp] theorem abortSession_reports (why : Report) (S : Session) (s : State) :
    (abortSession why S s).reports = s.reports ++ [why] := rfl
@[simp] theorem abortSession_freeIdx (why : Report) (S : Session) (s : State) :
    (abortSession why S s).freeIdx = s.freeIdx := rfl

/-! ## `readRegister` -/

@[simp] theorem readRegister_acc (r : Reg) (s : State) :
    (readRegister r s).acc = s.acc := by cases r <;> rfl
@[simp] theorem readRegister_stEq (r : Reg) (s : State) :
    (readRegister r s).stEq = s.stEq := by cases r <;> rfl
@[simp] theorem readRegister_stErr (r : Reg) (s : State) :
    (readRegister r s).stErr = s.stErr := by cases r <;> rfl
@[simp] theorem readRegister_stEcode (r : Reg) (s : State) :
    (readRegister r s).stEcode = s.stEcode := by cases r <;> rfl
@[simp] theorem readRegister_inputs (r : Reg) (s : State) :
    (readRegister r s).inputs = s.inputs.tail := by cases r <;> rfl
@[simp] theorem readRegister_completions (r : Reg) (s : State) :
    (readRegister r s).completions = s.completions := by cases r <;> rfl
@[simp] theorem readRegister_reads_acc (s : State) :
    (readRegister .acc s).reads = s.reads ++ [.acc (readAcc s)] := rfl
@[simp] theorem readRegister_reads_st (s : State) :
    (readRegister .st s).reads = s.reads ++ [.st (readSt s)] := rfl
@[simp] theorem readRegister_session (r : Reg) (s : State) :
    (readRegister r s).session = s.session := by cases r <;> rfl
@[simp] theorem readRegister_jobs (r : Reg) (s : State) :
    (readRegister r s).jobs = s.jobs := by cases r <;> rfl
@[simp] theorem readRegister_unitSize (r : Reg) (s : State) :
    (readRegister r s).unitSize = s.unitSize := by cases r <;> rfl
@[simp] theorem readRegister_cmdQueue (r : Reg) (s : State) :
    (readRegister r s).cmdQueue = s.cmdQueue := by cases r <;> rfl
@[simp] theorem readRegister_fwQueue (r : Reg) (s : State) :
    (readRegister r s).fwQueue = s.fwQueue := by cases r <;> rfl
@[simp] theorem readRegister_subCmd (r : Reg) (s : State) :
    (readRegister r s).subCmd = s.subCmd := by cases r <;> rfl
@[simp] theorem readRegister_subFw (r : Reg) (s : State) :
    (readRegister r s).subFw = s.subFw := by cases r <;> rfl
@[simp] theorem readRegister_linkClosed (r : Reg) (s : State) :
    (readRegister r s).linkClosed = s.linkClosed := by cases r <;> rfl
@[simp] theorem readRegister_writes (r : Reg) (s : State) :
    (readRegister r s).writes = s.writes := by cases r <;> rfl
@[simp] theorem readRegister_reports (r : Reg) (s : State) :
    (readRegister r s).reports = s.reports := by cases r <;> rfl
@[simp] theorem readRegister_freeIdx (r : Reg) (s : State) :
    (readRegister r s).freeIdx = s.freeIdx := by cases r <;> rfl

end Sys2Proof.Machine
end

