-- ==== Sys2Proof/Laws/Ops.lean ====
section
/-! SUPPORT. What each shared operation can do, said once. -/

namespace Sys2Proof.Machine

/-! ## The command port -/

@[simp] theorem inputMessage_present (i : Instr) (m : Msg) (s : State) : inputMessage (present i m s) = m := rfl

theorem inputMessage_issue (s : State) (cw : CmdWord) (m : Msg) (rest : List Input)
    (h : s.inputs = .issue cw m :: rest) : inputMessage s = m := by
  simp [inputMessage, h]

theorem withLength_accepted (accepts : Nat → Bool) (run : State → State) (s : State)
    (h : accepts (inputMessage s).length = true) : withLength accepts run s = run s := by
  simp [withLength, h]

theorem withLength_refused (accepts : Nat → Bool) (run : State → State) (s : State)
    (h : accepts (inputMessage s).length = false) : withLength accepts run s = refuse .badLength s := by
  simp [withLength, h]

@[simp] theorem withLength_any (run : State → State) (s : State) : withLength acceptsAny run s = run s := rfl

@[simp] theorem lastBytes_emit_bytes (m : Msg) (s : State) : lastBytes (emit (.bytes m) s) = some m := by
  simp [lastBytes]

theorem lastBytes_congr (s t : State) (h : s.completions = t.completions) : lastBytes s = lastBytes t := by
  simp [lastBytes, h]

@[simp] theorem acceptsNone_iff (n : Nat) : acceptsNone n = true ↔ n = 0 := by simp [acceptsNone]

@[simp] theorem acceptsTrailer_iff (n : Nat) : acceptsTrailer n = true ↔ 2 ≤ n :=
  decide_eq_true_iff

@[simp] theorem acceptsPayload_iff (n : Nat) : acceptsPayload n = true ↔ 1 ≤ n ∧ n ≤ 509 :=
  decide_eq_true_iff

/-! ## The nine operations as the host issues them -/

/-- `CRC.APPEND` of a presented message hands over the message and its trailer. -/
theorem crcAppendOp_present (i : Instr) (m : Msg) (s : State) :
    crcAppendOp (present i m s) = emit (.bytes (withTrailer m)) (present i m s) := rfl

/-- `ENC.START` presented without a message hands over the Start Command. -/
theorem encStartOp_present (i : Instr) (size : BitVec 32) (s : State) :
    encStartOp size (present i [] s) = emit (.bytes (startFrame size)) (present i [] s) := rfl

/-- `ENC.CHUNK` of a presented payload of an accepted length hands over the chunk frame. -/
theorem encChunkOp_present (i : Instr) (tag : Word16) (seq : Byte) (p : Msg) (s : State)
    (h : 1 ≤ p.length ∧ p.length ≤ 509) :
    encChunkOp tag seq (present i p s) = emit (.bytes (chunkBytes tag seq p)) (present i p s) := by
  rw [encChunkOp, withLength_accepted]
  · rfl
  · simpa using h

/-- `DEC.CACK` of a presented message: dropped, or decoded and delivered. -/
theorem decCackOp_present (i : Instr) (m : Msg) (s : State) :
    decCackOp (present i m s) =
      if m.length ≠ 20 then emit .none (present i m s)
      else emit (.cack (cackRecord m).ackCode (cackRecord m).echoedCmd (cackRecord m).response)
        (writeEq (frameMatches m) (present i m s)) := rfl

/-- `DEC.FACK` of a presented message: dropped, or decoded and delivered. -/
theorem decFackOp_present (i : Instr) (m : Msg) (s : State) :
    decFackOp (present i m s) =
      if m.length ≠ 20 then emit .none (present i m s)
      else emit (.fack (fackRecord m).sectorSent (fackRecord m).status (fackRecord m).currentSector)
        (writeEq (frameMatches m) (present i m s)) := rfl

/-! ## What a decode reads -/

/-- The trailer of an acknowledgement's byte image matches when it is the checksum of what stands before it. -/
theorem frameMatches_ackBytes (a b c r : Word16) (res : Msg) (h : res.length = 12) :
    frameMatches (ackBytes a b c res r) = decide (crc16 (le16 a ++ le16 b ++ le16 c ++ res) = r) := by
  obtain ⟨-, -, -, h4, h5, -⟩ := fields_ackBytes a b c r res h
  simp only [frameMatches, Params.frameCover, Params.frameCrcOff, h4, h5]
  rfl

theorem cackRecord_ackBytes (a b c r : Word16) (res : Msg) (h : res.length = 12) :
    cackRecord (ackBytes a b c res r) = ⟨a, b, if frameMatches (ackBytes a b c res r) then c else 0xFFFF⟩ := by
  obtain ⟨h1, h2, h3, -, -, -⟩ := fields_ackBytes a b c r res h
  simp only [cackRecord, Params.fieldAOff, Params.fieldBOff, Params.fieldCOff, h1, h2, h3]
  rfl

theorem fackRecord_ackBytes (a b c r : Word16) (res : Msg) (h : res.length = 12) :
    fackRecord (ackBytes a b c res r) = ⟨a, if frameMatches (ackBytes a b c res r) then b else 0xFFFF, c⟩ := by
  obtain ⟨h1, h2, h3, -, -, -⟩ := fields_ackBytes a b c r res h
  simp only [fackRecord, Params.fieldAOff, Params.fieldBOff, Params.fieldCOff, h1, h2, h3]
  rfl

/-! ## The Start Command that `ENC.START` builds -/

theorem startBody_eq (size : BitVec 32) : startBody size = [0x01, 0x00] ++ le32 size ++ zeros 14 := by
  simp only [startBody, Params.sizeLen, memWrite, leBytes_four]
  rfl

/-- The rule's writes give the layout: command code, size, zeros, trailer. -/
theorem startFrame_eq (size : BitVec 32) : startFrame size =
    [0x01, 0x00] ++ le32 size ++ zeros 12 ++ le16 (crc16 ([0x01, 0x00] ++ le32 size ++ zeros 12)) := by
  have h : slice (startBody size) 0 Params.frameCover = [0x01, 0x00] ++ le32 size ++ zeros 12 := by
    rw [startBody_eq]; rfl
  rw [startFrame, h, memWrite, leBytes_two, startBody_eq]
  rfl

/-! ## Delivering a record -/

/-- What a fate can do to a queue. -/
theorem applyFate_cases (f : Fate) (q : List α) (r : α) :
    applyFate f q r = q ++ [r] ∨ applyFate f q r = q ∨ applyFate f q r = [r] := by
  cases f
  · exact .inl rfl
  · exact .inr (.inl rfl)
  · exact .inr (.inr rfl)

theorem deliverCack_awaited (r : CackRecord) (s : State) (h : awaitsCack s = true) :
    deliverCack r s = { s with cmdQueue := s.cmdQueue ++ [r] } := by
  simp [deliverCack, h]

theorem deliverFack_awaited (r : FackRecord) (s : State) (h : awaitsFack s = true) :
    deliverFack r s = { s with fwQueue := s.fwQueue ++ [r] } := by
  simp [deliverFack, h]

/-- A record that nobody awaits is kept, dropped, or put in the place of what waits; one free value is used. -/
theorem deliverCack_unawaited (r : CackRecord) (s : State) (h : awaitsCack s = false) :
    ∃ q, deliverCack r s = { s with cmdQueue := q, freeIdx := s.freeIdx + 1 } ∧
      (q = s.cmdQueue ++ [r] ∨ q = s.cmdQueue ∨ q = [r]) :=
  ⟨_, by simp only [deliverCack, h]; rfl, applyFate_cases (Config.unawaitedFate s.freeIdx) s.cmdQueue r⟩

theorem deliverFack_unawaited (r : FackRecord) (s : State) (h : awaitsFack s = false) :
    ∃ q, deliverFack r s = { s with fwQueue := q, freeIdx := s.freeIdx + 1 } ∧
      (q = s.fwQueue ++ [r] ∨ q = s.fwQueue ∨ q = [r]) :=
  ⟨_, by simp only [deliverFack, h]; rfl, applyFate_cases (Config.unawaitedFate s.freeIdx) s.fwQueue r⟩

/-! ## What an operation of the block can be -/

/-- `ACC` after an operation that is not refused, from its message and the old `ACC`. -/
def accAfter : Instr → Msg → Word16 → Word16
  | .crcInit, _, _ => 0
  | .crcByte b, _, a => crcByte a b
  | .crcSum, m, _ => crc16 m
  | _, _, a => a

/-- `EQ` after an operation that is not refused, from its message and the old `EQ`. -/
def eqAfter : Instr → Msg → Bool → Bool
  | .crcCheck, m, _ => trailerMatches (slice m 0 (m.length - 2)) (field16 m (m.length - 2))
  | .decCack, m, e => if m.length ≠ 20 then e else frameMatches m
  | .decFack, m, e => if m.length ≠ 20 then e else frameMatches m
  | _, _, e => e

/-- An operation of the block on a given message, in every state: refused with code 3, or answered with one and the same
output, with `ACC` and `EQ` as above and nothing else changed. -/
theorem exec_operation_eq (i : Instr) (m : Msg) (h : isOperation i = true) :
    (∀ s, inputMessage s = m → exec i s = .next (refuse .badLength s)) ∨
    ∃ out, ∀ s, inputMessage s = m →
      exec i s = .next (emit out { s with acc := accAfter i m s.acc, stEq := eqAfter i m s.stEq }) := by
  have key : ∀ (accepts : Nat → Bool) (run : State → State) (out : Output),
      (∀ s, exec i s = .next (withLength accepts run s)) →
      (∀ s, inputMessage s = m →
        run s = emit out { s with acc := accAfter i m s.acc, stEq := eqAfter i m s.stEq }) →
      (∀ s, inputMessage s = m → exec i s = .next (refuse .badLength s)) ∨
      ∃ out, ∀ s, inputMessage s = m →
        exec i s = .next (emit out { s with acc := accAfter i m s.acc, stEq := eqAfter i m s.stEq }) := by
    intro accepts run out hexec hrun
    by_cases hl : accepts m.length = true
    · refine .inr ⟨out, fun s hs => ?_⟩
      rw [hexec, withLength_accepted _ _ _ (by rw [hs]; exact hl), hrun s hs]
    · refine .inl fun s hs => ?_
      rw [hexec, withLength_refused _ _ _ (by rw [hs]; exact eq_false_of_ne_true hl)]
  cases i with
  | crcInit => exact key acceptsNone _ .none (fun _ => rfl) (fun _ _ => rfl)
  | crcByte b => exact key acceptsNone _ .none (fun _ => rfl) (fun _ _ => rfl)
  | crcSum => exact key acceptsAny _ .none (fun _ => rfl) (fun s hs => by rw [hs]; rfl)
  | crcAppend => exact key acceptsAny _ (.bytes (m ++ le16 (crc16 m))) (fun _ => rfl) (fun s hs => by rw [hs]; rfl)
  | crcCheck => exact key acceptsTrailer _ .none (fun _ => rfl) (fun s hs => by simp only [hs]; rfl)
  | encStart size => exact key acceptsNone _ (.bytes (startFrame size)) (fun _ => rfl) (fun _ _ => rfl)
  | encChunk tag seq =>
    exact key acceptsPayload _ (.bytes (le16 tag ++ [seq] ++ m)) (fun _ => rfl) (fun s hs => by rw [hs]; rfl)
  | decCack =>
    by_cases hm : m.length ≠ 20
    · exact key acceptsAny _ .none (fun _ => rfl) (fun s hs => by simp only [hs, eqAfter, if_pos hm]; exact if_pos hm)
    · exact key acceptsAny _ (.cack (cackRecord m).ackCode (cackRecord m).echoedCmd (cackRecord m).response)
        (fun _ => rfl) (fun s hs => by simp only [hs, eqAfter, if_neg hm]; exact if_neg hm)
  | decFack =>
    by_cases hm : m.length ≠ 20
    · exact key acceptsAny _ .none (fun _ => rfl) (fun s hs => by simp only [hs, eqAfter, if_pos hm]; exact if_pos hm)
    · exact key acceptsAny _ (.fack (fackRecord m).sectorSent (fackRecord m).status (fackRecord m).currentSector)
        (fun _ => rfl) (fun s hs => by simp only [hs, eqAfter, if_neg hm]; exact if_neg hm)
  | frameStartCmd _ _ => simp [isOperation] at h
  | frameCmdAck _ _ _ _ _ => simp [isOperation] at h
  | frameSectorAck _ _ _ _ _ => simp [isOperation] at h
  | frameChunk _ _ _ => simp [isOperation] at h
  | frameSector _ _ => simp [isOperation] at h

theorem accAfter_keeps (i : Instr) (m : Msg) (a : Word16) (h : writesAcc i = false) : accAfter i m a = a := by
  cases i <;> first | rfl | simp [writesAcc] at h

theorem eqAfter_keeps (i : Instr) (m : Msg) (e : Bool) (h : writesEq i = false) : eqAfter i m e = e := by
  cases i <;> first | rfl | simp [writesEq] at h

/-- An operation of the block ends in one of two ways: refused with code 3, or answered with `done`, with `ACC` and `EQ`
kept but for the operations that write them, and nothing else changed. -/
theorem exec_operation_cases (i : Instr) (s : State) (h : isOperation i = true) :
    exec i s = .next (refuse .badLength s) ∨
    ∃ out a e, exec i s = .next (emit out { s with acc := a, stEq := e }) ∧
      (writesAcc i = false → a = s.acc) ∧ (writesEq i = false → e = s.stEq) := by
  rcases exec_operation_eq i (inputMessage s) h with hr | ⟨out, hr⟩
  · exact .inl (hr s rfl)
  · exact .inr ⟨out, _, _, hr s rfl, accAfter_keeps i _ _, eqAfter_keeps i _ _⟩

end Sys2Proof.Machine
end

