-- ==== Sys2Proof/Laws/Transfer.lean ====
section
/-! SUPPORT. What each move of the host can do, said once (spec/43_host_sequences.md). -/

namespace Sys2Proof.Machine

/-! ## Sending -/

theorem sendSector_next (j : Nat) (sector : Msg) (s t : State) (h : sendSector j sector s = .next t) :
    1 ≤ maxChunkPayload s.unitSize ∧ chunkCount sector.length (maxChunkPayload s.unitSize).toNat ≤ 256 ∧
    t = { s with jobs := s.jobs ++ chunkJobs sector (maxChunkPayload s.unitSize).toNat (sectorTag j sector) } := by
  unfold sendSector at h
  split at h
  · cases h
  · split at h
    · cases h
    · rename_i h1 h2
      cases h
      exact ⟨by omega, by simpa [Params.chunksMax] using h2, rfl⟩

theorem sendSector_ok (j : Nat) (sector : Msg) (s : State) (h1 : 1 ≤ maxChunkPayload s.unitSize)
    (h2 : chunkCount sector.length (maxChunkPayload s.unitSize).toNat ≤ 256) :
    sendSector j sector s = .next { s with
      jobs := s.jobs ++ chunkJobs sector (maxChunkPayload s.unitSize).toNat (sectorTag j sector) } := by
  unfold sendSector
  rw [if_neg (by omega), if_neg (by simpa [Params.chunksMax] using h2)]

/-- One chunk too many is refused by the host (R141). -/
theorem sendSector_tooMany (j : Nat) (sector : Msg) (s : State) (h1 : 1 ≤ maxChunkPayload s.unitSize)
    (h2 : 256 < chunkCount sector.length (maxChunkPayload s.unitSize).toNat) :
    sendSector j sector s = .refused .tooManyChunks := by
  unfold sendSector
  rw [if_neg (by omega), if_pos (by simpa [Params.chunksMax] using h2)]

theorem uploadSector_next (i : Nat) (S : Session) (s t : State) (h : uploadSector i S s = .next t) :
    ∃ sector, S.sectors[i]? = some sector ∧ 1 ≤ maxChunkPayload s.unitSize ∧
      chunkCount sector.length (maxChunkPayload s.unitSize).toNat ≤ 256 ∧
      t = { s with
        session := some { S with cursor := i, phase := .uploadingSector }
        jobs := s.jobs ++ chunkJobs sector (maxChunkPayload s.unitSize).toNat (sectorTag i sector) } := by
  unfold uploadSector at h
  split at h
  · cases h
  · rename_i sector hs
    obtain ⟨h1, h2, h3⟩ := sendSector_next _ _ _ _ h
    exact ⟨sector, hs, h1, h2, h3⟩

theorem uploadSector_ok (i : Nat) (S : Session) (s : State) (sector : Msg) (hs : S.sectors[i]? = some sector)
    (h1 : 1 ≤ maxChunkPayload s.unitSize)
    (h2 : chunkCount sector.length (maxChunkPayload s.unitSize).toNat ≤ 256) :
    uploadSector i S s = .next { s with
      session := some { S with cursor := i, phase := .uploadingSector }
      jobs := s.jobs ++ chunkJobs sector (maxChunkPayload s.unitSize).toNat (sectorTag i sector) } := by
  unfold uploadSector
  rw [hs]
  exact sendSector_ok _ _ _ h1 h2

theorem uploadSector_tooMany (i : Nat) (S : Session) (s : State) (sector : Msg) (hs : S.sectors[i]? = some sector)
    (h1 : 1 ≤ maxChunkPayload s.unitSize)
    (h2 : 256 < chunkCount sector.length (maxChunkPayload s.unitSize).toNat) :
    uploadSector i S s = .refused .tooManyChunks := by
  unfold uploadSector
  rw [hs]
  exact sendSector_tooMany _ _ _ h1 h2

theorem uploadSector_missing (i : Nat) (S : Session) (s : State) (h : S.sectors[i]? = none) :
    uploadSector i S s = .refused .targetOutOfRange := by
  simp [uploadSector, h]

theorem writeLast_some (e : Endpoint) (x : Bool) (s : State) (m : Msg) (h : lastBytes s = some m) :
    writeLast e x s = transportWrite e m x s := by
  simp [writeLast, transportWrite, h]

theorem writeLast_none (e : Endpoint) (x : Bool) (s : State) (h : lastBytes s = none) : writeLast e x s = s := by
  simp [writeLast, h]

/-- One issue to `ENC.START` and one write of what it hands over. -/
theorem sendStart_eq (S : Session) (s : State) : sendStart S s = { s with
    inputs := s.inputs.tail
    completions := s.completions ++ [.done (.bytes (startFrame (BitVec.ofNat 32 S.image.length)))]
    writes := s.writes ++ [WireWrite.mk .command (startFrame (BitVec.ofNat 32 S.image.length)) true]
    session := some { S with phase := .awaitingStartAck } } := by
  simp only [sendStart, encStartOp_present, writeLast, lastBytes_emit_bytes]
  rfl

/-- One issue to `CRC.APPEND`, whose output is the next sector. -/
theorem initMove_more (S : Session) (s : State) (h : S.sectors.length < sectorCount S.image) : initMove S s = { s with
    inputs := s.inputs.tail
    completions := s.completions ++ [.done (.bytes (withTrailer (window S.image S.sectors.length)))]
    session := some { S with sectors := S.sectors ++ [withTrailer (window S.image S.sectors.length)] } } := by
  simp only [initMove, h, if_true, crcAppendOp_present, lastBytes_emit_bytes]
  rfl

theorem initMove_done (S : Session) (s : State) (h : sectorCount S.image ≤ S.sectors.length) :
    initMove S s = sendStart S s := by
  simp [initMove, Nat.not_lt.mpr h]

/-- One issue to `ENC.CHUNK` with an accepted payload, and one write of the frame. -/
theorem sendChunk_ok (job : ChunkJob) (rest : List ChunkJob) (s : State)
    (h : 1 ≤ job.payload.length ∧ job.payload.length ≤ 509) : sendChunk job rest s = { s with
      inputs := s.inputs.tail
      jobs := rest
      completions := s.completions ++ [.done (.bytes (jobFrame job))]
      writes := s.writes ++ [WireWrite.mk .firmware (jobFrame job) false]
      session := if rest = [] then s.session.map uploaded else s.session } := by
  have hl : lastBytes { emit (.bytes (chunkBytes job.tag job.seq job.payload))
      (present (.encChunk job.tag job.seq) job.payload s) with jobs := rest } =
      some (chunkBytes job.tag job.seq job.payload) :=
    lastBytes_emit_bytes _ _
  simp only [sendChunk, encChunkOp_present _ _ _ _ _ h, writeLast_some _ _ _ _ hl]
  by_cases hr : rest = []
  · rw [if_pos hr, if_pos hr]; rfl
  · rw [if_neg hr, if_neg hr]; rfl

/-- A chunk that `ENC.CHUNK` refuses is not written: the issue is refused. -/
theorem sendChunk_bad (job : ChunkJob) (rest : List ChunkJob) (s : State)
    (h : ¬ (1 ≤ job.payload.length ∧ job.payload.length ≤ 509)) : sendChunk job rest s =
      { refuse .badLength s with
        jobs := rest
        session := if rest = [] then s.session.map uploaded else s.session } := by
  have he : encChunkOp job.tag job.seq (present (.encChunk job.tag job.seq) job.payload s) =
      refuse .badLength (present (.encChunk job.tag job.seq) job.payload s) := by
    apply withLength_refused
    exact eq_false_of_ne_true (by simpa using h)
  have hl : lastBytes { refuse .badLength (present (.encChunk job.tag job.seq) job.payload s) with jobs := rest } =
      none := by
    simp [lastBytes]
  simp only [sendChunk, he, writeLast_none _ _ _ hl]
  by_cases hr : rest = []
  · rw [if_pos hr, if_pos hr]; rfl
  · rw [if_neg hr, if_neg hr]; rfl

/-! ## The dispatcher -/

theorem dispatchCack_unsubscribed (m : Msg) (s : State) (h : s.subCmd = false) :
    dispatchCack m s = takeInput s := by
  simp [dispatchCack, h]

theorem dispatchFack_unsubscribed (m : Msg) (s : State) (h : s.subFw = false) :
    dispatchFack m s = takeInput s := by
  simp [dispatchFack, h]

theorem dispatchCack_dropped (m : Msg) (s : State) (h : s.subCmd = true) (hm : m.length ≠ 20) :
    dispatchCack m s = emit .none s := by
  simp only [dispatchCack, h, if_true, decCackOp_present, if_pos hm]
  rw [if_neg (by exact hm)]
  rfl

theorem dispatchFack_dropped (m : Msg) (s : State) (h : s.subFw = true) (hm : m.length ≠ 20) :
    dispatchFack m s = emit .none s := by
  simp only [dispatchFack, h, if_true, decFackOp_present, if_pos hm]
  rw [if_neg (by exact hm)]
  rfl

theorem dispatchCack_decoded (m : Msg) (s : State) (h : s.subCmd = true) (hm : m.length = 20) :
    dispatchCack m s = deliverCack (cackRecord m)
      (emit (.cack (cackRecord m).ackCode (cackRecord m).echoedCmd (cackRecord m).response)
        (writeEq (frameMatches m) s)) := by
  simp only [dispatchCack, h, if_true, decCackOp_present]
  rw [if_pos (by exact hm), if_neg (by simp [hm])]
  rfl

theorem dispatchFack_decoded (m : Msg) (s : State) (h : s.subFw = true) (hm : m.length = 20) :
    dispatchFack m s = deliverFack (fackRecord m)
      (emit (.fack (fackRecord m).sectorSent (fackRecord m).status (fackRecord m).currentSector)
        (writeEq (frameMatches m) s)) := by
  simp only [dispatchFack, h, if_true, decFackOp_present]
  rw [if_pos (by exact hm), if_neg (by simp [hm])]
  rfl

/-! ## The state machine -/

/-- What reading an acknowledgement can lead to: the next state is one of these five. -/
inductive AckMove (S : Session) (s : State) : State → Prop where
  /-- Nothing to read: it waits. -/
  | wait : AckMove S s (takeInput s)
  /-- The Start Command goes out again. -/
  | resend (q : List CackRecord) : AckMove S s (sendStart S { s with cmdQueue := q })
  /-- A sector that exists is handed to the Chunker. -/
  | upload (i : Nat) (sector : Msg) (cq : List CackRecord) (fq : List FackRecord) (rs : List Report)
      (hs : S.sectors[i]? = some sector) (h1 : 1 ≤ maxChunkPayload s.unitSize)
      (h2 : chunkCount sector.length (maxChunkPayload s.unitSize).toNat ≤ 256) :
      AckMove S s { takeInput s with
        cmdQueue := cq, fwQueue := fq, reports := rs
        session := some { S with cursor := i, phase := .uploadingSector }
        jobs := s.jobs ++ chunkJobs sector (maxChunkPayload s.unitSize).toNat (sectorTag i sector) }
  /-- The last sector is acknowledged: the session is complete. -/
  | complete (fq : List FackRecord) (r : Report) (h : S.cursor + 1 = sectorCount S.image) :
      AckMove S s (closeTransport { report r (takeInput { s with fwQueue := fq }) with
        session := some { S with phase := .complete } })
  /-- The session is aborted. -/
  | abort (cq : List CackRecord) (fq : List FackRecord) (r : Report) :
      AckMove S s (abortSession r S (takeInput { s with cmdQueue := cq, fwQueue := fq }))

theorem startAckMove_cases (S : Session) (s t : State) (h : startAckMove S s = .next t) : AckMove S s t := by
  unfold startAckMove at h
  split at h
  · cases h; exact .wait
  · rename_i r q _
    simp only at h
    split at h
    · cases h; exact .resend q
    · split at h
      · cases h; exact .abort q s.fwQueue .startRejected
      · split at h
        · obtain ⟨sector, hs, h1, h2, rfl⟩ := uploadSector_next _ _ _ _ h
          exact .upload 0 sector q s.fwQueue s.reports hs h1 h2
        · cases h

theorem sectorAckMove_cases (S : Session) (s t : State) (h : sectorAckMove S s = .next t) : AckMove S s t := by
  unfold sectorAckMove at h
  split at h
  · cases h; exact .wait
  · rename_i r q _
    simp only at h
    split at h
    · split at h
      · rename_i hl
        cases h
        exact .complete q _ hl
      · obtain ⟨sector, hs, h1, h2, rfl⟩ := uploadSector_next _ _ _ _ h
        exact .upload _ sector s.cmdQueue q _ hs h1 h2
    · split at h
      · obtain ⟨sector, hs, h1, h2, rfl⟩ := uploadSector_next _ _ _ _ h
        exact .upload _ sector s.cmdQueue q s.reports hs h1 h2
      · split at h
        · obtain ⟨sector, hs, h1, h2, rfl⟩ := uploadSector_next _ _ _ _ h
          exact .upload _ sector s.cmdQueue q s.reports hs h1 h2
        · cases h
          exact .abort s.cmdQueue q .unknownError

/-- What a turn can do: the next state is one of these. -/
inductive TurnMove (s : State) : State → Prop where
  /-- A chunk goes out. -/
  | chunk (job : ChunkJob) (rest : List ChunkJob) (h : s.jobs = job :: rest) : TurnMove s (sendChunk job rest s)
  /-- Nothing to do. -/
  | rest (h : s.jobs = []) : TurnMove s (takeInput s)
  /-- A move in `INIT`. -/
  | init (S : Session) (h : s.jobs = []) (hS : s.session = some S) (hp : S.phase = .init) : TurnMove s (initMove S s)
  /-- All chunks were sent. -/
  | sent (S : Session) (h : s.jobs = []) (hS : s.session = some S) (hp : S.phase = .uploadingSector) :
      TurnMove s (sectorSent (takeInput s))
  /-- A move on an acknowledgement. -/
  | ack (S : Session) (t : State) (h : s.jobs = []) (hS : s.session = some S)
      (hp : S.phase = .awaitingStartAck ∨ S.phase = .awaitingSectorAck) (ht : AckMove S s t) : TurnMove s t

theorem hostTurn_cases (s t : State) (h : hostTurn s = .next t) : TurnMove s t := by
  unfold hostTurn at h
  split at h
  · rename_i job rest hj
    cases h; exact .chunk job rest hj
  · rename_i hj
    split at h
    · cases h; exact .rest hj
    · rename_i S hS
      split at h
      · rename_i hp; cases h; exact .init S hj hS hp
      · rename_i hp; exact .ack S t hj hS (.inl hp) (startAckMove_cases S s t h)
      · rename_i hp; cases h; exact .sent S hj hS hp
      · rename_i hp; exact .ack S t hj hS (.inr hp) (sectorAckMove_cases S s t h)
      · cases h; exact .rest hj
      · cases h; exact .rest hj

/-! ## Opening a session and losing the link -/

theorem openSession_next (image : Msg) (u : Nat) (s t : State) (h : openSession image u s = .next t) :
    sessionLive s = false ∧ image ≠ [] ∧ 1 ≤ maxChunkPayload u ∧ image.length < 4294967296 ∧
    sectorCount image ≤ 65535 ∧ t = { takeInput s with
      session := some { image := image, sectors := [], cursor := 0, phase := .init }
      unitSize := u, jobs := [], cmdQueue := [], fwQueue := []
      subCmd := true, subFw := true, linkClosed := false } := by
  unfold openSession at h
  split at h
  · cases h
  · split at h
    · cases h
    · split at h
      · cases h
      · split at h
        · cases h
        · rename_i h1 h2 h3 h4
          cases h
          simp only [Params.imageLimit, Params.sectorsMax, not_or, Nat.not_le, Nat.not_lt] at h4
          exact ⟨eq_false_of_ne_true h1, h2, by omega, h4.1, h4.2, rfl⟩

theorem loseLink_live (s : State) (S : Session) (hS : s.session = some S) (h : sessionLive s = true) :
    loseLink s = abortSession .transportError S (closeTransport { takeInput s with jobs := [] }) := by
  simp [loseLink, hS, h]

theorem loseLink_idle (s : State) (h : sessionLive s = false) :
    loseLink s = closeTransport { takeInput s with jobs := [] } := by
  unfold loseLink
  split
  · rfl
  · simp [h]

end Sys2Proof.Machine
end

