-- ==== Sys2Proof/Laws/Step.lean ====
section
/-! SUPPORT. What one step can be, said once per kind of event. -/

namespace Sys2Proof.Machine

theorem step_idle (s : State) (h : s.inputs = []) : step s = .next s := by simp [step, h, idle]

theorem step_issue_ok (s : State) (cw : CmdWord) (mi : Msg) (rest : List Input) (i : Instr)
    (h : s.inputs = .issue cw mi :: rest) (hd : decodeWord cw = .ok i) : step s = exec i s := by
  simp [step, h, hd]

theorem step_issue_error (s : State) (cw : CmdWord) (mi : Msg) (rest : List Input) (e : WordError)
    (h : s.inputs = .issue cw mi :: rest) (hd : decodeWord cw = .error e) :
    step s = .next (refuse (wordRefusal e) s) := by
  simp [step, h, hd, badWord]

theorem step_wire_ok (s : State) (kind : WireKind) (m : Msg) (rest : List Input) (i : Instr)
    (h : s.inputs = .wire kind m :: rest) (hd : decodeWire kind m = .ok i) : step s = exec i s := by
  simp [step, h, hd]

theorem step_wire_error (s : State) (kind : WireKind) (m : Msg) (rest : List Input) (e : WireError)
    (h : s.inputs = .wire kind m :: rest) (hd : decodeWire kind m = .error e) : step s = badFrame kind m s := by
  simp [step, h, hd]

theorem step_turn (s : State) (rest : List Input) (h : s.inputs = .turn :: rest) : step s = hostTurn s := by
  simp [step, h]

theorem step_openSession (s : State) (image : Msg) (u : Nat) (rest : List Input)
    (h : s.inputs = .openSession image u :: rest) : step s = openSession image u s := by
  simp [step, h]

theorem step_disconnect (s : State) (rest : List Input) (h : s.inputs = .disconnect :: rest) :
    step s = .next (loseLink s) := by
  simp [step, h]

theorem step_read (s : State) (r : Reg) (rest : List Input) (h : s.inputs = .read r :: rest) :
    step s = .next (readRegister r s) := by
  simp [step, h]

theorem step_reset (s : State) (rest : List Input) (h : s.inputs = .reset :: rest) :
    step s = .next (resetBlock s) := by
  simp [step, h]

/-- A command word whose code spells an operation but whose reserved bits are not zero is refused with code 2. -/
theorem step_badOperand (o : Op) (s : State) (cw : CmdWord) (mi : Msg) (rest : List Input)
    (h : s.inputs = .issue cw mi :: rest) (ho : opField cw = opCode o)
    (hz : operandClean o (argField cw) = false) : step s = .next (refuse .badOperand s) := by
  simp [step, h, decodeWord_of_opField o cw ho, hz, badWord, wordRefusal]

/-- An issue is answered by a refusal, or by one `done` completion of an operation it spells. -/
theorem step_issue_cases (s : State) (cw : CmdWord) (mi : Msg) (rest : List Input)
    (h : s.inputs = .issue cw mi :: rest) :
    (∃ c, step s = .next (refuse c s)) ∨
    ∃ i out a e, decodeWord cw = .ok i ∧ step s = .next (emit out { s with acc := a, stEq := e }) ∧
      (writesAcc i = false → a = s.acc) ∧ (writesEq i = false → e = s.stEq) := by
  cases hd : decodeWord cw with
  | error e => exact .inl ⟨_, step_issue_error s cw mi rest e h hd⟩
  | ok i =>
    have hs := step_issue_ok s cw mi rest i h hd
    rcases exec_operation_cases i s (isOperation_of_decodeWord cw i hd) with hr | ⟨out, a, e, hr, ha, he⟩
    · exact .inl ⟨_, by rw [hs, hr]⟩
    · exact .inr ⟨i, out, a, e, rfl, by rw [hs, hr], ha, he⟩

/-! ## Runs -/

@[simp] theorem runSteps_zero (s : State) : runSteps 0 s = .next s := rfl

theorem runSteps_succ (n : Nat) (s t : State) (h : step s = .next t) : runSteps (n + 1) s = runSteps n t := by
  simp [runSteps, h]

/-- A run that ends in a state took a first step and a shorter run. -/
theorem runSteps_succ_inv (n : Nat) (s u : State) (h : runSteps (n + 1) s = .next u) :
    ∃ t, step s = .next t ∧ runSteps n t = .next u := by
  cases hs : step s with
  | next t => exact ⟨t, rfl, by rw [← runSteps_succ n s t hs, h]⟩
  | fault r => simp [runSteps, hs] at h
  | refused r => simp [runSteps, hs] at h

end Sys2Proof.Machine
end

