-- ==== Sys2Proof/Laws/Block.lean ====
section
/-! SUPPORT. What one step can do to the block's registers and to the completions: the inversion lemma from which every
claim about `ACC`, `ST` and the completions follows. -/

namespace Sys2Proof.Machine

/-- The four ways a step can leave the block. -/
inductive BlockChange (s t : State) : Prop where
  /-- Nothing was issued: registers and completions stay. -/
  | quiet (acc : t.acc = s.acc) (eq : t.stEq = s.stEq) (err : t.stErr = s.stErr) (ecode : t.stEcode = s.stEcode)
      (completions : t.completions = s.completions)
  /-- One issue was refused. -/
  | refused (c : RefusalCode) (acc : t.acc = s.acc) (eq : t.stEq = s.stEq) (err : t.stErr = true)
      (ecode : t.stEcode = if s.stErr then s.stEcode else refusalValue c)
      (completions : t.completions = s.completions ++ [.refused c])
  /-- One issue was done; `ACC` and `EQ` changed only for the operations that write them. -/
  | done (out : Output) (acc : t.acc ≠ s.acc → ∃ e rest, s.inputs = e :: rest ∧ touchesAcc e = true)
      (eq : t.stEq ≠ s.stEq → ∃ e rest, s.inputs = e :: rest ∧ touchesEq e = true)
      (err : t.stErr = s.stErr) (ecode : t.stEcode = s.stEcode)
      (completions : t.completions = s.completions ++ [.done out])
  /-- The block was reset. -/
  | reset (rest : List Input) (head : s.inputs = .reset :: rest) (acc : t.acc = 0) (eq : t.stEq = false)
      (err : t.stErr = false) (ecode : t.stEcode = 0) (completions : t.completions = s.completions)

theorem blockChange_takeInput (s : State) : BlockChange s (takeInput s) := .quiet rfl rfl rfl rfl rfl

theorem blockChange_refuse (c : RefusalCode) (s : State) : BlockChange s (refuse c s) :=
  .refused c rfl rfl rfl rfl rfl

theorem blockChange_sendStart (S : Session) (s u : State) (h : u.acc = s.acc ∧ u.stEq = s.stEq ∧ u.stErr = s.stErr ∧
    u.stEcode = s.stEcode ∧ u.completions = s.completions) : BlockChange s (sendStart S u) := by
  rw [sendStart_eq]
  obtain ⟨h1, h2, h3, h4, h5⟩ := h
  exact .done _ (fun hn => absurd h1 hn) (fun hn => absurd h2 hn) h3 h4
    (congrArg (· ++ [Completion.done (.bytes (startFrame (BitVec.ofNat 32 S.image.length)))]) h5)

theorem blockChange_sendChunk (job : ChunkJob) (rest : List ChunkJob) (s : State) :
    BlockChange s (sendChunk job rest s) := by
  by_cases h : 1 ≤ job.payload.length ∧ job.payload.length ≤ 509
  · rw [sendChunk_ok job rest s h]
    exact .done _ (fun hn => absurd rfl hn) (fun hn => absurd rfl hn) rfl rfl rfl
  · rw [sendChunk_bad job rest s h]
    exact .refused .badLength rfl rfl rfl rfl rfl

theorem blockChange_dispatchCack (m : Msg) (s : State)
    (h : ∃ rest, s.inputs = .wire .cmdAck m :: rest) : BlockChange s (dispatchCack m s) := by
  obtain ⟨rest, h⟩ := h
  cases hs : s.subCmd with
  | false => rw [dispatchCack_unsubscribed m s hs]; exact blockChange_takeInput s
  | true =>
    by_cases hm : m.length = 20
    · rw [dispatchCack_decoded m s hs hm]
      exact .done _ (fun hn => absurd rfl hn) (fun _ => ⟨_, rest, h, rfl⟩) rfl rfl rfl
    · rw [dispatchCack_dropped m s hs hm]
      exact .done _ (fun hn => absurd rfl hn) (fun hn => absurd rfl hn) rfl rfl rfl

theorem blockChange_dispatchFack (m : Msg) (s : State)
    (h : ∃ rest, s.inputs = .wire .sectorAck m :: rest) : BlockChange s (dispatchFack m s) := by
  obtain ⟨rest, h⟩ := h
  cases hs : s.subFw with
  | false => rw [dispatchFack_unsubscribed m s hs]; exact blockChange_takeInput s
  | true =>
    by_cases hm : m.length = 20
    · rw [dispatchFack_decoded m s hs hm]
      exact .done _ (fun hn => absurd rfl hn) (fun _ => ⟨_, rest, h, rfl⟩) rfl rfl rfl
    · rw [dispatchFack_dropped m s hs hm]
      exact .done _ (fun hn => absurd rfl hn) (fun hn => absurd rfl hn) rfl rfl rfl

theorem blockChange_ackMove (S : Session) (s t : State) (h : AckMove S s t) : BlockChange s t := by
  cases h with
  | wait => exact blockChange_takeInput s
  | resend q => exact blockChange_sendStart S s _ ⟨rfl, rfl, rfl, rfl, rfl⟩
  | upload => exact .quiet rfl rfl rfl rfl rfl
  | complete => exact .quiet rfl rfl rfl rfl rfl
  | abort => exact .quiet rfl rfl rfl rfl rfl

theorem blockChange_turn (s t : State) (h : TurnMove s t) : BlockChange s t := by
  cases h with
  | chunk job rest _ => exact blockChange_sendChunk job rest s
  | rest => exact blockChange_takeInput s
  | init S =>
    by_cases hm : S.sectors.length < sectorCount S.image
    · rw [initMove_more S s hm]
      exact .done _ (fun hn => absurd rfl hn) (fun hn => absurd rfl hn) rfl rfl rfl
    · rw [initMove_done S s (by omega)]
      exact blockChange_sendStart S s s ⟨rfl, rfl, rfl, rfl, rfl⟩
  | sent => exact .quiet rfl rfl rfl rfl rfl
  | ack S _ _ _ _ ht => exact blockChange_ackMove S s t ht

/-! ## The inversion -/

theorem blockChange_badFrame (kind : WireKind) (m : Msg) (s t : State) (rest : List Input)
    (h : s.inputs = .wire kind m :: rest) (ht : badFrame kind m s = .next t) : BlockChange s t := by
  cases kind with
  | cmdAck => cases ht; exact blockChange_dispatchCack m s ⟨rest, h⟩
  | sectorAck => cases ht; exact blockChange_dispatchFack m s ⟨rest, h⟩
  | startCmd => cases ht
  | chunk => cases ht
  | sector => cases ht

theorem blockChange_wire (kind : WireKind) (m : Msg) (i : Instr) (s t : State) (rest : List Input)
    (h : s.inputs = .wire kind m :: rest) (hd : decodeWire kind m = .ok i) (ht : exec i s = .next t) :
    BlockChange s t := by
  cases kind with
  | cmdAck =>
    rw [decodeWire_cmdAck] at hd
    split at hd
    · cases hd
    · rename_i hl
      cases hd
      simp only [exec, execFrameCmdAck, ackBytes_fields m (by omega)] at ht
      cases ht
      exact blockChange_dispatchCack m s ⟨rest, h⟩
  | sectorAck =>
    rw [decodeWire_sectorAck] at hd
    split at hd
    · cases hd
    · rename_i hl
      cases hd
      simp only [exec, execFrameSectorAck, ackBytes_fields m (by omega)] at ht
      cases ht
      exact blockChange_dispatchFack m s ⟨rest, h⟩
  | startCmd =>
    simp only [decodeWire] at hd
    repeat' split at hd
    all_goals cases hd
    cases ht
    exact .quiet rfl rfl rfl rfl rfl
  | chunk =>
    simp only [decodeWire] at hd
    split at hd
    · cases hd
    · cases hd; cases ht
      exact .quiet rfl rfl rfl rfl rfl
  | sector =>
    simp only [decodeWire] at hd
    split at hd
    · cases hd
    · cases hd
      obtain ⟨-, -, rfl⟩ := sendSector_next _ _ _ _ ht
      exact .quiet rfl rfl rfl rfl rfl

/-- One step leaves the block in one of four ways. -/
theorem step_blockChange (s t : State) (h : step s = .next t) : BlockChange s t := by
  cases hin : s.inputs with
  | nil => rw [step_idle s hin] at h; cases h; exact .quiet rfl rfl rfl rfl rfl
  | cons e rest =>
    cases e with
    | issue cw mi =>
      rcases step_issue_cases s cw mi rest hin with ⟨c, hc⟩ | ⟨i, out, a, q, hd, hc, ha, hq⟩
      · rw [hc] at h; cases h; exact blockChange_refuse c s
      · rw [hc] at h; cases h
        refine .done out (fun hn => ⟨_, rest, hin, ?_⟩) (fun hn => ⟨_, rest, hin, ?_⟩) rfl rfl rfl
        · cases hw : writesAcc i with
          | true => simp [touchesAcc, hd, hw]
          | false => exact absurd (ha hw) hn
        · cases hw : writesEq i with
          | true => simp [touchesEq, hd, hw]
          | false => exact absurd (hq hw) hn
    | wire kind m =>
      cases hd : decodeWire kind m with
      | ok i =>
        rw [step_wire_ok s kind m rest i hin hd] at h
        exact blockChange_wire kind m i s t rest hin hd h
      | error e =>
        rw [step_wire_error s kind m rest e hin hd] at h
        exact blockChange_badFrame kind m s t rest hin h
    | turn => rw [step_turn s rest hin] at h; exact blockChange_turn s t (hostTurn_cases s t h)
    | openSession image u =>
      rw [step_openSession s image u rest hin] at h
      obtain ⟨-, -, -, -, -, rfl⟩ := openSession_next image u s t h
      exact .quiet rfl rfl rfl rfl rfl
    | disconnect =>
      rw [step_disconnect s rest hin] at h
      cases h
      cases hl : sessionLive s with
      | false => rw [loseLink_idle s hl]; exact .quiet rfl rfl rfl rfl rfl
      | true =>
        cases hS : s.session with
        | none => simp [sessionLive, hS] at hl
        | some S => rw [loseLink_live s S hS hl]; exact .quiet rfl rfl rfl rfl rfl
    | read r =>
      rw [step_read s r rest hin] at h
      cases h
      exact .quiet (by simp) (by simp) (by simp) (by simp) (by simp)
    | reset => rw [step_reset s rest hin] at h; cases h; exact .reset rest hin rfl rfl rfl rfl rfl

/-- Every step takes exactly the event at the head, whatever it is. -/
theorem step_inputs (s t : State) (h : step s = .next t) : t.inputs = s.inputs.tail := by
  cases hin : s.inputs with
  | nil => rw [step_idle s hin] at h; cases h; simp [hin]
  | cons e rest =>
    rw [← hin]
    have hT : ∀ u, TurnMove s u → u.inputs = s.inputs.tail := by
      intro u hu
      cases hu with
      | chunk job rest _ =>
        by_cases h : 1 ≤ job.payload.length ∧ job.payload.length ≤ 509
        · rw [sendChunk_ok job rest s h]
        · rw [sendChunk_bad job rest s h]; rfl
      | rest => rfl
      | init S =>
        by_cases hm : S.sectors.length < sectorCount S.image
        · rw [initMove_more S s hm]
        · rw [initMove_done S s (by omega), sendStart_eq]
      | sent => rfl
      | ack S _ _ _ _ ht =>
        cases ht with
        | resend q => rw [sendStart_eq]
        | _ => rfl
    have hC : ∀ m, (dispatchCack m s).inputs = s.inputs.tail := by
      intro m
      cases hs : s.subCmd with
      | false => rw [dispatchCack_unsubscribed m s hs]; rfl
      | true =>
        by_cases hm : m.length = 20
        · rw [dispatchCack_decoded m s hs hm]; rfl
        · rw [dispatchCack_dropped m s hs hm]; rfl
    have hF : ∀ m, (dispatchFack m s).inputs = s.inputs.tail := by
      intro m
      cases hs : s.subFw with
      | false => rw [dispatchFack_unsubscribed m s hs]; rfl
      | true =>
        by_cases hm : m.length = 20
        · rw [dispatchFack_decoded m s hs hm]; rfl
        · rw [dispatchFack_dropped m s hs hm]; rfl
    cases e with
    | issue cw mi =>
      rcases step_issue_cases s cw mi rest hin with ⟨c, hc⟩ | ⟨i, out, a, q, hd, hc, ha, hq⟩
      · rw [hc] at h; cases h; rfl
      · rw [hc] at h; cases h; rfl
    | wire kind m =>
      cases hd : decodeWire kind m with
      | error e =>
        rw [step_wire_error s kind m rest e hin hd] at h
        cases kind <;> cases h
        · exact hC m
        · exact hF m
      | ok i =>
        rw [step_wire_ok s kind m rest i hin hd] at h
        cases i <;> simp only [exec, execFrameStartCmd, execFrameCmdAck, execFrameSectorAck, execFrameChunk, execFrameSector] at h
        all_goals first
          | (obtain ⟨-, -, rfl⟩ := sendSector_next _ _ _ _ h; rfl)
          | (cases h; first | rfl | exact hC _ | exact hF _)
          | skip
        all_goals exfalso; clear h
        all_goals (cases kind <;> simp only [decodeWire] at hd <;> (repeat' split at hd) <;> cases hd)
    | turn => rw [step_turn s rest hin] at h; exact hT t (hostTurn_cases s t h)
    | openSession image u =>
      rw [step_openSession s image u rest hin] at h
      obtain ⟨-, -, -, -, -, rfl⟩ := openSession_next image u s t h
      rfl
    | disconnect =>
      rw [step_disconnect s rest hin] at h
      cases h
      cases hl : sessionLive s with
      | false => rw [loseLink_idle s hl]; rfl
      | true =>
        cases hS : s.session with
        | none => simp [sessionLive, hS] at hl
        | some S => rw [loseLink_live s S hS hl]; rfl
    | read r =>
      rw [step_read s r rest hin] at h
      cases h
      simp
    | reset => rw [step_reset s rest hin] at h; cases h; rfl

end Sys2Proof.Machine
end

