-- ==== Sys2Proof/Laws/PerInstr.lean ====
section
/-! SUPPORT. One family of statements made per instruction: the shape of its spelling (spec/30_encoding.md R60, R63, R65 to
R74, R76). -/

namespace Sys2Proof.Laws.Shape

/-- The lengths that a frame of each kind has (R76). -/
def frameLength : WireKind → Nat → Prop
  | .startCmd, n => n = 20
  | .cmdAck, n => n = 20
  | .sectorAck, n => n = 20
  | .chunk, n => 4 ≤ n ∧ n ≤ 512
  | .sector, n => 3 ≤ n ∧ n ≤ 4098

/-- A well-formed instruction is spelled as a command word whose reserved bits are zero when it is an operation, and as
bytes of a length that its kind has when it is a wire structure. -/
def Statement (i : Instr) : Prop :=
  wellFormed i = true →
    match encode i with
    | .word cw => isOperation i = true ∧ ∃ o arg, cw = makeWord o arg ∧ operandClean o arg = true
    | .wire kind m => isOperation i = false ∧ frameLength kind m.length

theorem crcInit : Statement .crcInit := fun _ => ⟨rfl, .crcInit, 0, rfl, rfl⟩

theorem crcByte (b : Byte) : Statement (.crcByte b) := by
  intro _
  refine ⟨rfl, .crcByte, b.setWidth 32, rfl, ?_⟩
  have hb := b.isLt
  have h : (b.setWidth 32).extractLsb' 8 24 = 0 := by
    apply BitVec.eq_of_toNat_eq
    simp only [BitVec.extractLsb'_toNat, BitVec.toNat_setWidth, Nat.shiftRight_eq_div_pow]
    show _ = 0
    omega
  simp [operandClean, h]

theorem crcSum : Statement .crcSum := fun _ => ⟨rfl, .crcSum, 0, rfl, rfl⟩

theorem crcAppend : Statement .crcAppend := fun _ => ⟨rfl, .crcAppend, 0, rfl, rfl⟩

theorem crcCheck : Statement .crcCheck := fun _ => ⟨rfl, .crcCheck, 0, rfl, rfl⟩

theorem encStart (size : BitVec 32) : Statement (.encStart size) := fun _ => ⟨rfl, .encStart, size, rfl, rfl⟩

theorem encChunk (tag : Word16) (seq : Byte) : Statement (.encChunk tag seq) := by
  intro _
  refine ⟨rfl, .encChunk, (seq ++ tag).setWidth 32, rfl, ?_⟩
  have ht := tag.isLt
  have hs := seq.isLt
  have h : ((seq ++ tag).setWidth 32).extractLsb' 24 8 = 0 := by
    apply BitVec.eq_of_toNat_eq
    simp only [BitVec.extractLsb'_toNat, BitVec.toNat_setWidth, append_toNat, Nat.shiftRight_eq_div_pow]
    show _ = 0
    omega
  simp only [operandClean, h]
  rfl

theorem decCack : Statement .decCack := fun _ => ⟨rfl, .decCack, 0, rfl, rfl⟩

theorem decFack : Statement .decFack := fun _ => ⟨rfl, .decFack, 0, rfl, rfl⟩

theorem frameStartCmd (size : BitVec 32) (trailer : Word16) : Statement (.frameStartCmd size trailer) :=
  fun _ => ⟨rfl, startCmdBytes_length size trailer⟩

/-- The byte image of a well-formed acknowledgement is 20 bytes long. -/
theorem ack_length (a b c trailer : Word16) (reserved : Msg) (h : (reserved.length == Params.frameRsvdLen) = true) :
    (ackBytes a b c reserved trailer).length = 20 := by
  rw [ackBytes_length, eq_of_beq h, Params.frameRsvdLen]

theorem frameCmdAck (a b c : Word16) (reserved : Msg) (trailer : Word16) :
    Statement (.frameCmdAck a b c reserved trailer) :=
  fun h => ⟨rfl, ack_length a b c trailer reserved h⟩

theorem frameSectorAck (a b c : Word16) (reserved : Msg) (trailer : Word16) :
    Statement (.frameSectorAck a b c reserved trailer) :=
  fun h => ⟨rfl, ack_length a b c trailer reserved h⟩

theorem frameChunk (tag : Word16) (seq : Byte) (payload : Msg) : Statement (.frameChunk tag seq payload) := by
  intro h
  have hp : 1 ≤ payload.length ∧ payload.length ≤ 509 := of_decide_eq_true h
  refine ⟨rfl, ?_⟩
  rw [chunkBytes_length]
  exact ⟨by omega, by omega⟩

theorem frameSector (payload : Msg) (trailer : Word16) : Statement (.frameSector payload trailer) := by
  intro h
  have hp : 1 ≤ payload.length ∧ payload.length ≤ 4096 := of_decide_eq_true h
  refine ⟨rfl, ?_⟩
  rw [sectorBytes_length]
  exact ⟨by omega, by omega⟩

end Sys2Proof.Laws.Shape
end

