-- ==== Sys2Proof/Laws/Sequences.lean ====
section
/-! SUPPORT. What cutting a sequence into pieces does: the arithmetic of `ceil`, the length of a piece, and that the pieces
put together give the sequence back (spec/43_host_sequences.md R137, R140). -/

namespace Sys2Proof.Machine

theorem ceilDiv_le_iff (a b c : Nat) (hb : 1 ≤ b) : ceilDiv a b ≤ c ↔ a ≤ b * c := by
  have h : b * (c + 1) = b * c + b := by ring
  rw [ceilDiv, ← Nat.lt_succ_iff, Nat.div_lt_iff_lt_mul (by omega), Nat.succ_eq_add_one, Nat.mul_comm (c + 1), h]
  omega

theorem lt_ceilDiv_iff (a b q : Nat) (hb : 1 ≤ b) : q < ceilDiv a b ↔ b * q < a := by
  rw [← Nat.not_le, ceilDiv_le_iff a b q hb, Nat.not_le]

/-- A piece has m elements, or what is left. -/
theorem piece_length (m : Nat) (xs : List α) (q : Nat) (h : m * q < xs.length) :
    (piece m xs q).length = min m (xs.length - m * q) := by
  have : m * (q + 1) = m * q + m := by ring
  simp only [piece, slice_length, this]
  omega

/-- The first k pieces put together. -/
theorem first_pieces (m : Nat) (xs : List α) (k : Nat) :
    ((List.range k).map (piece m xs)).flatten = xs.take (m * k) := by
  induction k with
  | zero => simp
  | succ k ih =>
    have e : m * (k + 1) = m * k + m := by ring
    rw [List.range_succ, List.map_append, List.flatten_append, ih]
    simp only [List.map_cons, List.map_nil, List.flatten_cons, List.flatten_nil, List.append_nil]
    by_cases h : m * k ≤ xs.length
    · rw [piece, take_append_slice _ _ _ (by omega), List.take_eq_take_iff]
      omega
    · rw [List.take_of_length_le (by omega), List.take_of_length_le (by omega)]
      simp [piece, slice]
      omega

/-- All pieces put together are the sequence. -/
theorem all_pieces (m : Nat) (xs : List α) (hm : 1 ≤ m) :
    ((List.range (ceilDiv xs.length m)).map (piece m xs)).flatten = xs := by
  rw [first_pieces, List.take_of_length_le]
  exact (ceilDiv_le_iff xs.length m _ hm).mp (le_refl _)

@[simp] theorem segmentImage_length (image : Msg) : (segmentImage image).length = sectorCount image := by
  simp [segmentImage]

/-- A sector of an image is one of its windows with the trailer. -/
theorem segmentImage_get (image : Msg) (j : Nat) (sector : Msg) (h : (segmentImage image)[j]? = some sector) :
    j < sectorCount image ∧ sector = withTrailer (window image j) := by
  obtain ⟨hj, rfl⟩ := List.getElem?_eq_some_iff.mp h
  exact ⟨by simpa using hj, by simp [segmentImage]⟩

@[simp] theorem chunkJobs_length (sector : Msg) (m : Nat) (tag : Word16) :
    (chunkJobs sector m tag).length = chunkCount sector.length m := by
  simp [chunkJobs]

/-- The chunks queued for a sector become exactly the frames of `chunk`. -/
theorem chunkJobs_frames (sector : Msg) (m : Nat) (tag : Word16) :
    (chunkJobs sector m tag).map jobFrame = chunkFrames sector m tag := by
  simp [chunkJobs, chunkFrames, jobFrame]

/-- Every chunk queued for a sector carries 1 to m bytes. -/
theorem chunkJobs_payload (sector : Msg) (m : Nat) (tag : Word16) (hm : 1 ≤ m) :
    ∀ j ∈ chunkJobs sector m tag, 1 ≤ j.payload.length ∧ j.payload.length ≤ m := by
  intro j hj
  simp only [chunkJobs, List.mem_map, List.mem_range] at hj
  obtain ⟨q, hq, rfl⟩ := hj
  have h := (lt_ceilDiv_iff sector.length m q hm).mp hq
  simp only [chunkPayload, piece_length m sector q h]
  omega

/-- A sector that is not empty gives at least one chunk. -/
theorem chunkJobs_ne_nil (sector : Msg) (m : Nat) (tag : Word16) (hs : sector ≠ []) (hm : 1 ≤ m) :
    chunkJobs sector m tag ≠ [] := by
  intro h
  have hl := chunkJobs_length sector m tag
  have hp := (lt_ceilDiv_iff sector.length m 0 hm).mpr (by simpa using List.length_pos_of_ne_nil hs)
  rw [h, List.length_nil, chunkCount] at hl
  omega

end Sys2Proof.Machine
end

