-- ==== Sys2Proof/Tests/Slice0.lean ====
section
/-! SUPPORT. The model's own tests: the well-formedness smoke tests, words and frames written out from the spec's
encodings, one-step vectors from spec/95_test_vectors.md (each named in its comment), and for every statement with
hypotheses a state and operands that meet them. -/

namespace Sys2Proof.Tests

open Sys2Proof Sys2Proof.Machine

set_option Elab.async false

/-! ## Helpers -/

/-- A state of the block with an event list; the host's part as reset leaves it. -/
def block (acc : Word16) (eq err : Bool) (ecode : BitVec 3) (inputs : List Input) : State where
  acc := acc
  stEq := eq
  stErr := err
  stEcode := ecode
  inputs := inputs
  completions := []
  reads := []
  session := none
  jobs := []
  unitSize := 23
  cmdQueue := []
  fwQueue := []
  subCmd := true
  subFw := true
  linkClosed := false
  writes := []
  reports := []
  freeIdx := 0

/-- A block whose port holds one issue with the given message, its command word not looked at. -/
def port (m : Msg) : State := block 0xAAAA false false 0 [.issue 0 m]

/-- The next state, if there is one. -/
def next (r : Result) : Option State :=
  match r with
  | .next t => some t
  | .fault _ => none
  | .refused _ => none

/-- What a vector of spec/95_test_vectors.md lists after one step: `ACC`, the byte of `ST`, the completions. -/
def view (r : Result) : Option (Word16 × BitVec 8 × List Completion) :=
  (next r).map (fun t => (t.acc, readSt t, t.completions))

/-- One issue from the start state of section 2.2 (`ACC = 0xAAAA`, `ST = 0x00`). -/
def issue (cw : CmdWord) (m : Msg) : Option (Word16 × BitVec 8 × List Completion) :=
  view (step (block 0xAAAA false false 0 [.issue cw m]))

/-- One issue from the start state of section 2.5 (`ACC = 0x1234`, `ST = 0x01`). -/
def issueEq (cw : CmdWord) (m : Msg) : Option (Word16 × BitVec 8 × List Completion) :=
  view (step (block 0x1234 true false 0 [.issue cw m]))

/-- The nine digits "123456789" of V-CRC-8. -/
def digits : Msg := [0x31, 0x32, 0x33, 0x34, 0x35, 0x36, 0x37, 0x38, 0x39]

/-- V-CACK-1's bytes: an accepted start. -/
def ackAcceptedBytes : Msg :=
  [0x03, 0x00, 0x01, 0x00, 0x00, 0x00] ++ zeros 12 ++ [0x56, 0xA8]

/-- V-FACK-1's bytes: sector 1 success. -/
def ackSector1Bytes : Msg := [0x01, 0x00, 0x00, 0x00, 0x00, 0x00] ++ zeros 12 ++ [0x31, 0xF0]

/-- V-FACK-6's bytes: V-FACK-1 with bit 0 of byte 4 flipped. -/
def ackDamagedBytes : Msg := [0x01, 0x00, 0x00, 0x00, 0x01, 0x00] ++ zeros 12 ++ [0x31, 0xF0]

/-- The session of program P4 in a given phase: the image `DE AD BE EF 01`, its one sector produced. -/
def p4Session (phase : Phase) : Session where
  image := [0xDE, 0xAD, 0xBE, 0xEF, 0x01]
  sectors := [[0xDE, 0xAD, 0xBE, 0xEF, 0x01, 0xE9, 0xDE]]
  cursor := 0
  phase := phase

/-- The host of program P4 (unit size 10) in a given phase, about to take the given events. -/
def p4 (phase : Phase) (inputs : List Input) : State :=
  { block 0 false false 0 inputs with session := some (p4Session phase), unitSize := 10 }

/-! ## Well-formedness: an ill-formed term for each check, refused -/

theorem test_wf_cmdAck_reserved_short : wellFormed (.frameCmdAck 3 1 0 (zeros 11) 0) = false := by decide
theorem test_wf_cmdAck_reserved_long : wellFormed (.frameCmdAck 3 1 0 (zeros 13) 0) = false := by decide
theorem test_wf_cmdAck_reserved_right : wellFormed (.frameCmdAck 3 1 0 (zeros 12) 0) = true := by decide
theorem test_wf_sectorAck_reserved_short : wellFormed (.frameSectorAck 1 0 0 (zeros 11) 0) = false := by decide
theorem test_wf_sectorAck_reserved_right : wellFormed (.frameSectorAck 1 0 0 (zeros 12) 0) = true := by decide
theorem test_wf_chunk_empty : wellFormed (.frameChunk 0 0 []) = false := by decide
theorem test_wf_chunk_longest : wellFormed (.frameChunk 0 0 (zeros 509)) = true := by decide +kernel
theorem test_wf_chunk_too_long : wellFormed (.frameChunk 0 0 (zeros 510)) = false := by decide +kernel
theorem test_wf_sector_empty : wellFormed (.frameSector [] 0) = false := by decide
theorem test_wf_sector_longest : wellFormed (.frameSector (zeros 4096) 0) = true := by decide +kernel
theorem test_wf_sector_too_long : wellFormed (.frameSector (zeros 4097) 0) = false := by decide +kernel

/-! ## Decoding: words written out from R60 to R63 and R77 -/

theorem test_decode_crcInit : decodeWord 0x1000000000 = .ok .crcInit := rfl
theorem test_decode_crcByte : decodeWord 0x1100000031 = .ok (.crcByte 0x31) := rfl
theorem test_decode_crcSum : decodeWord 0x1200000000 = .ok .crcSum := rfl
theorem test_decode_crcAppend : decodeWord 0x1300000000 = .ok .crcAppend := rfl
theorem test_decode_crcCheck : decodeWord 0x1400000000 = .ok .crcCheck := rfl
theorem test_decode_encStart : decodeWord 0x2012345678 = .ok (.encStart 0x12345678) := rfl
theorem test_decode_encChunk : decodeWord 0x21007F0102 = .ok (.encChunk 0x0102 0x7F) := rfl
theorem test_decode_decCack : decodeWord 0x3000000000 = .ok .decCack := rfl
theorem test_decode_decFack : decodeWord 0x3100000000 = .ok .decFack := rfl
/-- V-REF-1 to V-REF-3, and P3 step 5. -/
theorem test_decode_illegal :
    decodeWord 0x0000000000 = .error .illegalOp ∧ decodeWord 0xFF00000000 = .error .illegalOp ∧
    decodeWord 0x1500000000 = .error .illegalOp ∧ decodeWord 0x3200000000 = .error .illegalOp := ⟨rfl, rfl, rfl, rfl⟩
/-- V-INIT-2, V-BYTE-3, V-CHUNK-9: a 1 in a bit that must be zero. -/
theorem test_decode_bad_operand :
    decodeWord 0x1000000001 = .error .badOperand ∧ decodeWord 0x1100000142 = .error .badOperand ∧
    decodeWord 0x2101000000 = .error .badOperand ∧ decodeWord 0x3080000000 = .error .badOperand := ⟨rfl, rfl, rfl, rfl⟩
/-- The encoder writes R77's words. -/
theorem test_encode_words :
    commandWord (.crcByte 0x31) = 0x1100000031 ∧ commandWord (.encStart 5000) = 0x2000001388 ∧
    commandWord (.encChunk 0xFFFF 0xFF) = 0x2100FFFFFF := by decide

/-- V-START-1's bytes are a Start Command of size 5000. -/
theorem test_decode_startCmd :
    decodeWire .startCmd ([0x01, 0x00, 0x88, 0x13, 0x00, 0x00] ++ zeros 12 ++ [0x6A, 0x44]) =
      .ok (.frameStartCmd 5000 0x446A) := by decide +kernel
/-- V-CACK-1's bytes: fields A, B, C of R69. -/
theorem test_decode_cmdAck :
    decodeWire .cmdAck ackAcceptedBytes = .ok (.frameCmdAck 0x0003 0x0001 0x0000 (zeros 12) 0xA856) := by
  decide +kernel
/-- V-FACK-15's bytes, V-START-7's output read as an acknowledgement: fields A, B, C of R70 all differ. -/
theorem test_decode_sectorAck :
    decodeWire .sectorAck ([0x01, 0x00, 0x78, 0x56, 0x34, 0x12] ++ zeros 12 ++ [0x85, 0x80]) =
      .ok (.frameSectorAck 0x0001 0x5678 0x1234 (zeros 12) 0x8085) := by decide +kernel
/-- V-CHUNK-4's bytes. -/
theorem test_decode_chunk :
    decodeWire .chunk [0x02, 0x01, 0x7F, 0xAA] = .ok (.frameChunk 0x0102 0x7F [0xAA]) := by decide
/-- V-APP-5's output is a sector. -/
theorem test_decode_sector :
    decodeWire .sector [0x01, 0x02, 0x03, 0x04, 0x05, 0x06, 0x0C, 0xD9] =
      .ok (.frameSector [0x01, 0x02, 0x03, 0x04, 0x05, 0x06] 0xD90C) := by decide
/-- Rejects by name: a wrong length, another command code, a reserved byte that is not zero (R67, R68, R76). -/
theorem test_decode_wire_rejects :
    decodeWire .cmdAck (zeros 19) = .error .wrongLength ∧ decodeWire .sectorAck (zeros 21) = .error .wrongLength ∧
    decodeWire .chunk [0x00, 0x00, 0xFF] = .error .wrongLength ∧ decodeWire .sector [0x00, 0x00] = .error .wrongLength ∧
    decodeWire .startCmd (zeros 20) = .error .notStartCommand ∧
    decodeWire .startCmd ([0x01, 0x00, 0x00, 0x00, 0x00, 0x00, 0x01] ++ zeros 13) = .error .reservedNonzero := by
  decide +kernel

/-! ## The opcode table's numbering and the fetch -/

/-- Rows of 40, 160, 24 and 16 bits; a width that no row has. -/
theorem test_tableWord :
    decodeTableWord 40 0x1100000031 = some (.crcByte 0x31) ∧
    decodeTableWord 160 (2 ^ 152) = some (.frameStartCmd 0 0) ∧
    decodeTableWord 160 (3 * 2 ^ 152) = some (.frameCmdAck 3 0 0 (zeros 12) 0) ∧
    decodeTableWord 160 0 = some (.frameSectorAck 0 0 0 (zeros 12) 0) ∧
    decodeTableWord 24 0x02017F = some (.frameChunk 0x0102 0x7F [0]) ∧
    decodeTableWord 16 0x0CD9 = some (.frameSector [0] 0xD90C) ∧ decodeTableWord 8 0x10 = none := by decide +kernel

/-- The very next step runs the word placed. -/
theorem test_fetch_word :
    step (State.reset.withFetchWord 40 0x1000000000) = exec .crcInit (State.reset.withFetchWord 40 0x1000000000) := rfl
/-- A frame placed is run too: a Start Command is one transport write. -/
theorem test_fetch_frame :
    (next (step (State.reset.withFetchWord 160 (2 ^ 152)))).map (fun t => t.writes.map (·.expectResponse)) =
      some [true] := by decide +kernel

/-! ## Vectors of the checksum functions (section 2.1) -/

/-- V-RND-2, V-RND-3, V-RND-4, V-RND-6. -/
theorem test_crc_round :
    crcRound 0x7FFF = 0xFFFE ∧ crcRound 0x8000 = 0x1021 ∧ crcRound 0xFFFF = 0xEFDF ∧ crcRound 0x8810 = 0x0001 := by
  decide
/-- V-BYT-2, V-BYT-3, V-BYT-6, V-BYT-7. -/
theorem test_crc_byte :
    crcByte 0x0000 0x01 = 0x1021 ∧ crcByte 0x0000 0x80 = 0x9188 ∧ crcByte 0x1234 0x56 = 0x3C40 ∧
    crcByte 0x8000 0x80 = 0x0000 := by decide +kernel
/-- V-CRC-8 (and the published check value), V-CRC-9, V-CRC-13. -/
theorem test_crc16 :
    crc16 digits = 0x31C3 ∧ crc16 (0xB1 :: digits.tail) = 0x8E71 ∧
    crc16 [0xDE, 0xAD, 0xBE, 0xEF, 0x01] = 0xDEE9 := by decide +kernel
/-- V-CRC-14: no zero residue. -/
theorem test_crc_residue : crc16 (digits ++ [0xC3, 0x31]) = 0xBAFE := by decide +kernel

/-! ## Vectors of the nine operations (sections 2.2 to 2.5) -/

/-- V-INIT-1. -/
theorem test_crcInit : issue 0x1000000000 [] = some (0x0000, 0x00, [.done .none]) := by decide +kernel
/-- V-INIT-3. -/
theorem test_crcInit_message : issue 0x1000000000 [0x00] = some (0xAAAA, 0x0E, [.refused .badLength]) := by
  decide +kernel
/-- V-BYTE-1. -/
theorem test_crcByte :
    view (step (block 0x58E5 false false 0 [.issue 0x1100000042 []])) = some (0x567B, 0x00, [.done .none]) := by
  decide +kernel
/-- V-BYTE-3. -/
theorem test_crcByte_operand : issue 0x1100000142 [] = some (0xAAAA, 0x0A, [.refused .badOperand]) := by
  decide +kernel
/-- V-SUM-1. -/
theorem test_crcSum : issue 0x1200000000 digits = some (0x31C3, 0x00, [.done .none]) := by decide +kernel
/-- V-SUM-2. -/
theorem test_crcSum_empty : issue 0x1200000000 [] = some (0x0000, 0x00, [.done .none]) := by decide +kernel
/-- V-APP-1. -/
theorem test_crcAppend :
    issue 0x1300000000 digits = some (0xAAAA, 0x00, [.done (.bytes (digits ++ [0xC3, 0x31]))]) := by decide +kernel
/-- V-APP-2. -/
theorem test_crcAppend_empty : issue 0x1300000000 [] = some (0xAAAA, 0x00, [.done (.bytes [0x00, 0x00])]) := by
  decide +kernel
/-- V-CHK-1 and V-CHK-2: the trailer's byte order. -/
theorem test_crcCheck :
    issue 0x1400000000 (digits ++ [0xC3, 0x31]) = some (0xAAAA, 0x01, [.done .none]) ∧
    issue 0x1400000000 (digits ++ [0x31, 0xC3]) = some (0xAAAA, 0x00, [.done .none]) := by decide +kernel
/-- V-CHK-3 and V-CHK-5: an empty body, and a message too short. -/
theorem test_crcCheck_short :
    issue 0x1400000000 [0x00, 0x00] = some (0xAAAA, 0x01, [.done .none]) ∧
    issue 0x1400000000 [0x00] = some (0xAAAA, 0x0E, [.refused .badLength]) := by decide +kernel
/-- V-START-7: the byte order of the size. -/
theorem test_encStart : issue 0x2012345678 [] =
    some (0xAAAA, 0x00, [.done (.bytes ([0x01, 0x00, 0x78, 0x56, 0x34, 0x12] ++ zeros 12 ++ [0x85, 0x80]))]) := by
  decide +kernel
/-- V-START-9. -/
theorem test_encStart_message : issue 0x2000001388 [0x00] = some (0xAAAA, 0x0E, [.refused .badLength]) := by
  decide +kernel
/-- V-CHUNK-4. -/
theorem test_encChunk :
    issue 0x21007F0102 [0xAA] = some (0xAAAA, 0x00, [.done (.bytes [0x02, 0x01, 0x7F, 0xAA])]) := by decide +kernel
/-- V-CHUNK-6 and V-CHUNK-8: the lengths just outside. -/
theorem test_encChunk_lengths :
    issue 0x2100000000 [] = some (0xAAAA, 0x0E, [.refused .badLength]) ∧
    issue 0x2100000000 (zeros 510) = some (0xAAAA, 0x0E, [.refused .badLength]) := by decide +kernel
/-- V-CACK-1 and V-CACK-3: a good trailer, and a damaged one. -/
theorem test_decCack :
    issue 0x3000000000 ackAcceptedBytes = some (0xAAAA, 0x01, [.done (.cack 0x0003 0x0001 0x0000)]) ∧
    issueEq 0x3000000000 (ackAcceptedBytes.take 19 ++ [0xA9]) =
      some (0x1234, 0x00, [.done (.cack 0x0003 0x0001 0xFFFF)]) := by decide +kernel
/-- V-CACK-6: 19 bytes are dropped and `EQ` is kept. -/
theorem test_decCack_dropped :
    issueEq 0x3000000000 (ackAcceptedBytes.take 19) = some (0x1234, 0x01, [.done .none]) := by decide +kernel
/-- V-FACK-5 and V-FACK-6: a status as received, and one overridden. -/
theorem test_decFack :
    issue 0x3100000000 ([0x01, 0x00, 0x03, 0x00, 0x01, 0x00] ++ zeros 12 ++ [0x1D, 0x63]) =
      some (0xAAAA, 0x01, [.done (.fack 0x0001 0x0003 0x0001)]) ∧
    issueEq 0x3100000000 ackDamagedBytes = some (0x1234, 0x00, [.done (.fack 0x0001 0xFFFF 0x0001)]) := by
  decide +kernel
/-- V-FACK-10: reserved bytes are covered by the checksum and not tested. -/
theorem test_decFack_reserved :
    issue 0x3100000000 ([0x01, 0x00, 0x00, 0x00, 0x00, 0x00] ++ List.replicate 12 0xAA ++ [0x10, 0x82]) =
      some (0xAAAA, 0x01, [.done (.fack 0x0001 0x0000 0x0000)]) := by decide +kernel
/-- V-REF-1, V-REF-4, V-REF-5: the three codes, in order of priority. -/
theorem test_refusals :
    issueEq 0x0000000000 [] = some (0x1234, 0x07, [.refused .illegalOp]) ∧
    issueEq 0x1000000001 [0x01, 0x02, 0x03, 0x04, 0x05] = some (0x1234, 0x0B, [.refused .badOperand]) ∧
    issueEq 0x2100000000 [] = some (0x1234, 0x0F, [.refused .badLength]) := by decide +kernel
/-- V-REF-6: the first code stays. -/
theorem test_first_code_stays :
    view (step (block 0x1234 true true 3 [.issue 0x0000000000 []])) = some (0x1234, 0x0F, [.refused .illegalOp]) := by
  decide +kernel

/-! ## Vectors of the host (sections 1 and 3) -/

/-- R139's values. -/
theorem test_max_chunk_payload :
    maxChunkPayload 6 = 0 ∧ maxChunkPayload 7 = 1 ∧ maxChunkPayload 23 = 17 ∧ maxChunkPayload 100 = 94 ∧
    maxChunkPayload 515 = 509 ∧ maxChunkPayload 10 = 4 := by decide
/-- V-CHUNK-5: L = 8 is a multiple of m = 4, and the second chunk still carries `0xFF`. -/
theorem test_chunk_multiple :
    chunkFrames [0x01, 0x02, 0x03, 0x04, 0x05, 0x06, 0x0C, 0xD9] 4 0xFFFF =
      [[0xFF, 0xFF, 0x00, 0x01, 0x02, 0x03, 0x04], [0xFF, 0xFF, 0xFF, 0x05, 0x06, 0x0C, 0xD9]] := by decide
/-- P4 step 1: one sector of 7 bytes. -/
theorem test_segment : segmentImage [0xDE, 0xAD, 0xBE, 0xEF, 0x01] = [[0xDE, 0xAD, 0xBE, 0xEF, 0x01, 0xE9, 0xDE]] := by
  decide +kernel
/-- P4 step 5: a turn sends the first chunk. -/
theorem test_turn_sends_chunk :
    (next (step { p4 .uploadingSector [.turn] with jobs := chunkJobs [0xDE, 0xAD, 0xBE, 0xEF, 0x01, 0xE9, 0xDE] 4 0xFFFF })).map
      (fun t => (t.writes, t.jobs.length)) =
    some ([⟨.firmware, [0xFF, 0xFF, 0x00, 0xDE, 0xAD, 0xBE, 0xEF], false⟩], 1) := by decide +kernel
/-- P4 step 7: success of the last sector completes the session, reports 100 and closes the transport. -/
theorem test_last_success :
    (next (step { p4 .awaitingSectorAck [.turn] with fwQueue := [⟨0xFFFF, 0x0000, 0x0000⟩] })).map
      (fun t => (t.session.map (·.phase), t.reports, t.linkClosed)) =
    some (some .complete, [.progress 100 1], true) := by decide +kernel
/-- P2 variant D: a rejected start aborts and reports it. -/
theorem test_start_rejected :
    (next (step { p4 .awaitingStartAck [.turn] with cmdQueue := [⟨0x0003, 0x0001, 0x0001⟩] })).map
      (fun t => (t.session.map (·.phase), t.reports, t.writes)) =
    some (some .aborted, [.startRejected], []) := by decide +kernel
/-- P4 step 3: an accepted start that is awaited reaches the command queue. -/
theorem test_frameCmdAck :
    (next (step (p4 .awaitingStartAck [.wire .cmdAck ackAcceptedBytes]))).map (fun t => (t.cmdQueue, t.stEq)) =
    some ([⟨0x0003, 0x0001, 0x0000⟩], true) := by decide +kernel
/-- P6 scenario B: a damaged acknowledgement is delivered with the sentinel as its status. -/
theorem test_frameSectorAck :
    (next (step (p4 .awaitingSectorAck [.wire .sectorAck ackDamagedBytes]))).map (fun t => (t.fwQueue, t.stEq)) =
    some ([⟨0x0001, 0xFFFF, 0x0001⟩], false) := by decide +kernel
/-- P4 steps 4 and 5: a sector of 7 bytes under unit size 10 becomes two chunks under the sentinel tag. -/
theorem test_frameSector :
    (next (exec (.frameSector [0xDE, 0xAD, 0xBE, 0xEF, 0x01] 0xDEE9) (p4 .uploadingSector []))).map
      (fun t => t.jobs.map (fun j => (j.tag, j.seq, j.payload.length))) =
    some [(0xFFFF, 0x00, 4), (0xFFFF, 0xFF, 3)] := by decide +kernel
/-- R144: the Start Command waits for the transport, a chunk does not. -/
theorem test_frame_writes :
    (next (exec (.frameStartCmd 5000 0x446A) State.reset)).map (fun t => t.writes.map (·.expectResponse)) = some [true] ∧
    (next (exec (.frameChunk 0 0xFF [0xF5]) State.reset)).map (fun t => t.writes) =
      some [⟨.firmware, [0x00, 0x00, 0xFF, 0xF5], false⟩] := by decide +kernel

/-! ## Witnesses: for every statement with hypotheses, a state and operands that meet them, at the ends of their ranges -/

/-- Some step from the state answers a next state. -/
def steps (s : State) : Bool := (next (step s)).isSome

/-- The machine of P4 at a turn of the state machine, with records waiting in its queues. -/
def atTurn (phase : Phase) (cq : List CackRecord) (fq : List FackRecord) : State :=
  { p4 phase [.turn] with cmdQueue := cq, fwQueue := fq }

/-- P4's sector. -/
def p4Sector : Msg := [0xDE, 0xAD, 0xBE, 0xEF, 0x01, 0xE9, 0xDE]

/-- The machine of P4 with its sector's two chunks still to be sent. -/
def p4Upload (inputs : List Input) : State :=
  { p4 .uploadingSector inputs with jobs := chunkJobs p4Sector 4 0xFFFF }

/-- A session of two sectors that awaits the acknowledgement of the first. -/
def twoSectors : Session where
  image := zeros 4097
  sectors := [[1, 2, 3], [4, 5, 6]]
  cursor := 0
  phase := .awaitingSectorAck

/-- What the statements about a turn ask of the state: a turn next, no chunk left to send, the session. -/
def turnReady (s : State) (S : Session) : Prop := s.inputs = .turn :: [] ∧ s.jobs = [] ∧ s.session = some S

/-- A session of two sectors of 257 bytes, one more than 256 chunks of one byte (unit size 7) can carry. -/
def longSession (phase : Phase) : Session where
  image := zeros 4097
  sectors := [zeros 257, zeros 257]
  cursor := 0
  phase := phase

/-- The machine of `longSession` at a turn of the state machine. -/
def longTurn (phase : Phase) (cq : List CackRecord) (fq : List FackRecord) : State :=
  { atTurn phase cq fq with session := some (longSession phase), unitSize := 7 }

/-- The premises that `longTurn` shares: a sector of either number needs more than 256 chunks. -/
theorem longSession_tooMany (phase : Phase) (cq : List CackRecord) (fq : List FackRecord) :
    turnReady (longTurn phase cq fq) (longSession phase) ∧ (longSession phase).sectors[0]? = some (zeros 257) ∧
    (longSession phase).sectors[1]? = some (zeros 257) ∧ 7 ≤ (longTurn phase cq fq).unitSize ∧
    256 < chunkCount (zeros 257).length (maxChunkPayload (longTurn phase cq fq).unitSize).toNat :=
  ⟨⟨rfl, rfl, rfl⟩, rfl, rfl, Nat.le_refl 7, by show 256 < chunkCount (zeros 257).length 1; decide +kernel⟩

theorem witness_ResetLeavesZero :
    (block 0x1234 true true 2 [.reset, .turn]).inputs = .reset :: [.turn] := rfl
theorem witness_HostReadChangesNothing :
    (block 1 true false 0 [.read .acc]).inputs = .read .acc :: [] ∧
    (block 1 true false 0 [.read .st]).inputs = .read .st :: [] := ⟨rfl, rfl⟩
theorem witness_IdleHoldsState : (block 0x1234 true true 3 []).inputs = [] := rfl
/-- An operation and a frame; words of the two refusals; bytes of each outbound kind that are no frame. -/
theorem witness_StepRunsDecodedInstruction :
    ((block 0 false false 0 [.issue 0x1100000031 []]).inputs = .issue 0x1100000031 [] :: [] ∧
      decodeWord 0x1100000031 = .ok (.crcByte 0x31)) ∧
    ((block 0 false false 0 [.wire .chunk [0, 0, 0xFF, 1]]).inputs = .wire .chunk [0, 0, 0xFF, 1] :: [] ∧
      decodeWire .chunk [0, 0, 0xFF, 1] = .ok (.frameChunk 0 0xFF [1])) ∧
    (decodeWord 0x1500000000 = .error .illegalOp ∧ decodeWord 0x1000000001 = .error .badOperand) ∧
    (decodeWire .chunk [0, 0, 0xFF] = .error .wrongLength ∧ decodeWire .sector [0, 0] = .error .wrongLength ∧
      decodeWire .startCmd (zeros 20) = .error .notStartCommand) :=
  ⟨⟨rfl, rfl⟩, ⟨rfl, by decide⟩, ⟨rfl, rfl⟩, by decide +kernel⟩
theorem witness_EveryIssueIsAnsweredOnce :
    (block 0 false true 1 [.issue 0xFFFFFFFFFF [1]]).inputs = .issue 0xFFFFFFFFFF [1] :: [] := rfl
theorem witness_CompletionsOnlyGrow :
    steps (block 0 false false 0 [.issue 0x1200000000 digits]) = true ∧ steps (p4 .init [.turn]) = true := by
  decide +kernel

/-- The ends of the clauses: the codes beside the nine, the argument's lowest must-be-zero bit, the accepted lengths and
those just outside. -/
theorem witness_IssueTestsInOrder :
    (port []).inputs = .issue 0 [] :: [] ∧
    opField 0x1500000000 ∉ [0x10#8, 0x11#8, 0x12#8, 0x13#8, 0x14#8, 0x20#8, 0x21#8, 0x30#8, 0x31#8] ∧
    (opField 0x1100000100 = opCode .crcByte ∧ operandClean .crcByte (argField 0x1100000100) = false) ∧
    (opField 0x11000000FF = opCode .crcByte ∧ operandClean .crcByte (argField 0x11000000FF) = true) ∧
    (lengthAccepted .crcInit 0 ∧ ¬ lengthAccepted .crcInit 1) ∧
    (lengthAccepted .crcCheck 2 ∧ ¬ lengthAccepted .crcCheck 1) ∧
    (lengthAccepted .encChunk 1 ∧ lengthAccepted .encChunk 509 ∧ ¬ lengthAccepted .encChunk 0 ∧
      ¬ lengthAccepted .encChunk 510) := by
  refine ⟨rfl, by decide, by decide, by decide, ?_, ?_, ?_⟩ <;> simp [lengthAccepted]
theorem witness_RefusalRecordsFirstCode :
    (block 0 false false 0 []).stErr = false ∧ (block 0 false true 3 []).stErr = true := ⟨rfl, rfl⟩
/-- `ERR` set and kept; clear and kept; clear and set by a refusal. -/
theorem witness_ErrIsSticky :
    ((block 0 true true 2 [.issue 0 []]).inputs.head? ≠ some .reset ∧ steps (block 0 true true 2 [.issue 0 []]) = true) ∧
    ((next (step (block 0 true false 0 [.turn]))).map (·.stErr) = some false) ∧
    ((next (step (block 0 true false 0 [.issue 0 []]))).map (fun t => (t.stErr, t.completions)) =
      some (true, [.refused .illegalOp])) ∧
    (block 0 true false 0 [.issue 0 []]).inputs = .issue 0 [] :: [] := by decide
theorem witness_AccWrittenByThreeOperations :
    (next (step (block 0x58E5 false false 0 [.issue 0x1100000042 []]))).map (fun t => decide (t.acc ≠ 0x58E5)) =
      some true := by decide +kernel
/-- A decode between two bytes of a streaming checksum. -/
theorem witness_InterleavedRunKeepsAcc :
    (∀ e ∈ (block 0x31C3 true false 0 [.issue 0x3100000000 ackDamagedBytes, .turn]).inputs.take 2,
      touchesAcc e = false) ∧
    (next (runSteps 2 (block 0x31C3 true false 0 [.issue 0x3100000000 ackDamagedBytes, .turn]))).map (·.stEq) =
      some false := by decide +kernel
theorem witness_EqWrittenByComparisonsOnly :
    (next (step (block 0 true false 0 [.issue 0x3100000000 ackDamagedBytes]))).map (·.stEq) = some false ∧
    (next (step (block 0 true false 0 [.issue 0x1400000000 [0]]))).map (·.completions) =
      some [.refused .badLength] := by decide +kernel
theorem witness_ChecksumStreams :
    (block 0xAAAA false false 0 (streamInputs digits ++ [.turn])).inputs = streamInputs digits ++ [.turn] ∧
    (block 0xAAAA false false 0 [.issue (commandWord .crcSum) digits]).inputs =
      .issue (commandWord .crcSum) digits :: [] := ⟨rfl, rfl⟩
theorem witness_SingleBitFlipDetected : 0 < [(0x31 : Byte)].length ∧ 8 < digits.length ∧ 0 < 8 ∧ 7 < 8 := by decide
theorem witness_ChecksumIsLinear :
    digits.length = digits.tail.length + 1 ∧ ackSector1Bytes.length = 20 ∧ ackDamagedBytes.length = 20 ∧
    crc16 (slice ackSector1Bytes 0 18) = field16 ackSector1Bytes 18 := by decide +kernel
theorem witness_CrcInitClearsAcc :
    inputMessage (port []) = [] ∧ inputMessage (port [0]) ≠ [] ∧ opField 0x1000000001 = 0x10 ∧
    argField 0x1000000001 ≠ 0 ∧ argField 0x1080000000 ≠ 0 := by decide
theorem witness_CrcByteAbsorbs :
    inputMessage (port []) = [] ∧ inputMessage (port [0]) ≠ [] ∧ opField 0x1100000142 = 0x11 ∧
    (argField 0x1100000142).extractLsb' 8 24 ≠ 0 := by decide
theorem witness_CrcSumLeavesChecksum :
    inputMessage (port []) = zeros 0 ∧ inputMessage (port [0, 0]) = zeros 2 ∧ opField 0x1200000001 = 0x12 ∧
    argField 0x1200000001 ≠ 0 := by decide
theorem witness_CrcAppendPutsTrailer :
    inputMessage (port []) = [] ∧ opField 0x1300000001 = 0x13 ∧ argField 0x1300000001 ≠ 0 := by decide
theorem witness_CrcCheckComparesTrailer :
    inputMessage (port [0, 0]) = [] ++ [0, 0] ∧ (inputMessage (port [0])).length < 2 ∧
    inputMessage (port (digits ++ [0xC3, 0x31])) = digits ++ le16 (crc16 digits) ∧ opField 0x1400000001 = 0x14 ∧
    argField 0x1400000001 ≠ 0 := by decide +kernel
theorem witness_EncStartBuildsStartCommand :
    inputMessage (port []) = [] ∧ inputMessage (port [0]) ≠ [] := by decide
theorem witness_EncChunkBuildsChunkFrame :
    (inputMessage (port [0xAA])).length = 1 ∧ (inputMessage (port (zeros 509))).length = 509 ∧
    (inputMessage (port [])).length < 1 ∧ 509 < (inputMessage (port (zeros 510))).length ∧
    opField 0x2101000000 = 0x21 ∧ (argField 0x2101000000).extractLsb' 24 8 ≠ 0 := by decide +kernel
theorem witness_EncodersLoopBack :
    inputMessage (port (startFrame 0xFFFFFFFF)) = startFrame 0xFFFFFFFF ∧
    chunkBytes 0xFFFF 0xFF [1] = chunkBytes 0xFFFF 0xFF [1] := ⟨rfl, rfl⟩
theorem witness_DecCackDecodes :
    (inputMessage (port (zeros 19))).length ≠ 20 ∧ (inputMessage (port (zeros 21))).length ≠ 20 ∧
    inputMessage (port ackAcceptedBytes) = ackBytes 3 1 0 (zeros 12) 0xA856 ∧ (zeros 12).length = 12 ∧
    crc16 (le16 3 ++ le16 1 ++ le16 0 ++ zeros 12) = 0xA856 ∧
    crc16 (le16 3 ++ le16 1 ++ le16 0 ++ zeros 12) ≠ 0xA956 ∧ opField 0x3000000001 = 0x30 ∧
    argField 0x3000000001 ≠ 0 := by decide +kernel
theorem witness_DecFackDecodes :
    (inputMessage (port (zeros 19))).length ≠ 20 ∧ (inputMessage (port (zeros 21))).length ≠ 20 ∧
    inputMessage (port ackSector1Bytes) = ackBytes 1 0 0 (zeros 12) 0xF031 ∧
    inputMessage (port ackDamagedBytes) = ackBytes 1 0 1 (zeros 12) 0xF031 ∧
    crc16 (le16 1 ++ le16 0 ++ le16 0 ++ zeros 12) = 0xF031 ∧
    crc16 (le16 1 ++ le16 0 ++ le16 1 ++ zeros 12) ≠ 0xF031 ∧ opField 0x3100000001 = 0x31 ∧
    argField 0x3100000001 ≠ 0 := by decide +kernel
theorem witness_DecodersDifferInOneField :
    (inputMessage (port ackAcceptedBytes)).length = 20 ∧ inputMessage (port (zeros 20)) = zeros 20 := by decide
theorem witness_OperationsTouchOnlyTheirRegisters :
    isOperation (.encStart 5) = true ∧ (next (exec (.encStart 5) (port []))).isSome = true := by decide +kernel
theorem witness_OutputDependsOnIssueAlone :
    isOperation .crcSum = true ∧ inputMessage (port [1]) = inputMessage (block 7 true true 1 [.issue 9 [1]]) ∧
    (next (exec .crcSum (port [1]))).isSome = true := by decide +kernel
theorem witness_SecondIssueIsIdempotent :
    (block 5 false false 0 [.issue 0x1400000000 [0, 0], .issue 0x1400000000 [0, 0]]).inputs =
      .issue 0x1400000000 [0, 0] :: .issue 0x1400000000 [0, 0] :: [] ∧
    decodeWord 0x1400000000 = .ok .crcCheck ∧ (∀ b, Instr.crcCheck ≠ .crcByte b) :=
  ⟨rfl, rfl, by intro b h; cases h⟩
theorem witness_DecodeInvertsEncode :
    wellFormed (.frameChunk 0xFFFF 0xFF (zeros 1)) = true ∧ wellFormed (.frameChunk 0 0 (zeros 509)) = true ∧
    wellFormed (.frameSector (zeros 1) 0) = true ∧ wellFormed (.frameSector (zeros 4096) 0xFFFF) = true ∧
    wellFormed (.frameCmdAck 3 1 0 (zeros 12) 7) = true ∧ wellFormed (.encChunk 0xFFFF 0xFF) = true := by
  decide +kernel
theorem witness_EncodeInvertsWordDecode : decodeWord 0x2100FFFFFF = .ok (.encChunk 0xFFFF 0xFF) := rfl
theorem witness_EncodeInvertsWireDecode :
    decodeWire .sector [1, 2, 3] = .ok (.frameSector [1] 0x0302) ∧
    decodeWire .startCmd (startCmdBytes 1 2) = .ok (.frameStartCmd 1 2) := by decide +kernel
theorem witness_StartCommandIsWritten :
    crc16 (slice (startCmdBytes 5000 0x446A) 0 18) = 0x446A := by decide +kernel
theorem witness_ChunkFrameIsWritten :
    inputMessage (port [0xAA]) = [0xAA] ∧ inputMessage (port (zeros 509)) = zeros 509 := ⟨rfl, rfl⟩
/-- Subscribed and awaited; subscribed and not awaited; not subscribed. -/
theorem witness_CommandAckIsDecodedAndQueued :
    (zeros 12).length = 12 ∧ (p4 .awaitingStartAck []).subCmd = true ∧ awaitsCack (p4 .awaitingStartAck []) = true ∧
    awaitsCack (p4 .init []) = false ∧
    awaitsCack { p4 .awaitingStartAck [] with cmdQueue := [⟨3, 1, 0⟩] } = false ∧ State.reset.subCmd = false := by
  decide
theorem witness_SectorAckIsDecodedAndQueued :
    (zeros 12).length = 12 ∧ (p4 .awaitingSectorAck []).subFw = true ∧
    awaitsFack (p4 .awaitingSectorAck []) = true ∧ awaitsFack (p4 .uploadingSector []) = false ∧
    awaitsFack { p4 .awaitingSectorAck [] with fwQueue := [⟨0, 0, 0⟩] } = false ∧ State.reset.subFw = false := by
  decide
/-- The smallest unit and the most chunks; a unit too small; one chunk too many. -/
theorem witness_SectorIsHandedToChunker :
    ([0xAA] : Msg) ++ [0, 0] = [0xAA] ++ le16 0 ∧ (7 ≤ 7 ∧ chunkCount (254 + 2) (maxChunkPayload 7).toNat ≤ 256) ∧
    (6 < 7) ∧ (256 < chunkCount (255 + 2) (maxChunkPayload 7).toNat) := by decide
theorem witness_WireStructuresKeepRegisters :
    isOperation (.frameChunk 0 0xFF [1]) = false ∧ (next (exec (.frameChunk 0 0xFF [1]) State.reset)).isSome = true ∧
    isOperation (.frameCmdAck 3 1 0 (zeros 12) 0xA856) = false ∧
    (next (exec (.frameCmdAck 3 1 0 (zeros 12) 0xA856) (p4 .awaitingStartAck []))).isSome = true := by
  decide +kernel
/-- One byte short and one too many, with the subscriptions and, from reset, without. -/
theorem witness_WrongLengthPayloadIsDropped :
    (zeros 19).length ≠ 20 ∧ (zeros 21).length ≠ 20 ∧ (block 0 true false 0 [.wire .cmdAck (zeros 19)]).subCmd = true ∧
    (block 0 true false 0 [.wire .sectorAck (zeros 21)]).subFw = true ∧
    (placeInput (.wire .cmdAck (zeros 21)) State.reset).subCmd = false ∧
    (placeInput (.wire .sectorAck (zeros 19)) State.reset).subFw = false := by decide
theorem witness_SegmentReconstructsImage :
    ([0xDE] : Msg) ≠ [] ∧ (segmentImage [0xDE])[0]? = some (withTrailer [0xDE]) := ⟨by decide, by decide +kernel⟩
theorem witness_OnlyShortLastSectorTaggedSentinel :
    ([0xDE] : Msg) ≠ [] ∧ sectorCount [0xDE] ≤ 65535 ∧ (segmentImage [0xDE])[0]? = some (withTrailer [0xDE]) :=
  ⟨by decide, by decide, by decide +kernel⟩
theorem witness_MaxChunkPayloadBounds :
    (block 0 false false 0 [.openSession [1] 6]).inputs = .openSession [1] 6 :: [] ∧
    sessionLive (block 0 false false 0 [.openSession [1] 6]) = false ∧ ([1] : Msg) ≠ [] ∧ 6 < 7 ∧ 515 ≤ 515 := by
  decide
/-- A sector in two chunks, the first of the full payload, and the longest one that chunks of one byte can carry. -/
theorem witness_ChunkReconstructsSector :
    (([1, 2, 3] : Msg) ≠ [] ∧ 1 ≤ 2 ∧ chunkCount ([1, 2, 3] : Msg).length 2 ≤ 256 ∧
      (chunkFrames [1, 2, 3] 2 5)[1]? = some [5, 0, 0xFF, 3]) ∧
    (zeros 256 ≠ [] ∧ 1 ≤ 1 ∧ chunkCount (zeros 256).length 1 ≤ 256) := by decide +kernel
theorem witness_FullSectorNeedsSeventeen :
    chunkCount 4098 17 ≤ 256 ∧ 256 < chunkCount 4098 16 ∧ maxChunkPayload 23 = 17 ∧ maxChunkPayload 22 = 16 := by
  decide
/-- P4: the sector of 7 bytes in two chunks of at most 4, with a session that uploads it; in another phase; with no
session; and with a later chunk behind them. -/
theorem witness_TurnsSendTheSector :
    p4Sector ≠ [] ∧ 1 ≤ 4 ∧ 4 ≤ 509 ∧ chunkCount p4Sector.length 4 ≤ 256 ∧
    (p4Upload [.turn, .turn, .reset]).jobs = chunkJobs p4Sector 4 0xFFFF ++ [] ∧
    (p4Upload [.turn, .turn, .reset]).session = some (p4Session .uploadingSector) ∧
    (p4Session .uploadingSector).phase = .uploadingSector ∧
    (p4Upload [.turn, .turn, .reset]).inputs =
      List.replicate (chunkCount p4Sector.length 4) .turn ++ [.reset] ∧
    (p4 .complete []).session = some (p4Session .complete) ∧ (p4Session .complete).phase ≠ .uploadingSector ∧
    State.reset.session = none ∧
    ({ p4Upload [.turn, .turn] with jobs := chunkJobs p4Sector 4 0xFFFF ++ chunkJobs [1] 4 0 } : State).jobs =
      chunkJobs p4Sector 4 0xFFFF ++ chunkJobs [1] 4 0 ∧ chunkJobs [1] 4 0 ≠ [] := by decide
/-- The good case at the smallest unit; the empty image; a live session, and one that is complete. -/
theorem witness_SessionOpensOnGoodImage :
    ((block 0 false false 0 [.openSession [1] 7]).inputs = .openSession [1] 7 :: [] ∧
      sessionLive (block 0 false false 0 [.openSession [1] 7]) = false ∧ ([1] : Msg) ≠ [] ∧ 7 ≤ 7 ∧
      ([1] : Msg).length < 4294967296 ∧ sectorCount [1] ≤ 65535) ∧
    ((block 0 false false 0 [.openSession [1] 6]).inputs = .openSession [1] 6 :: [] ∧
      sessionLive (block 0 false false 0 [.openSession [1] 6]) = false ∧ 6 < 7) ∧
    ((p4 .complete [.openSession [] 7]).inputs = .openSession [] 7 :: [] ∧
      sessionLive (p4 .complete [.openSession [] 7]) = false) ∧
    ((p4 .awaitingSectorAck [.openSession [1] 7]).inputs = .openSession [1] 7 :: [] ∧
      sessionLive (p4 .awaitingSectorAck [.openSession [1] 7]) = true) := by decide
/-- An image of the largest size that is taken, and one byte more. -/
theorem witness_SessionOpensOnGoodImage_large :
    sectorCount (zeros (65535 * 4096)) ≤ 65535 ∧ 65535 < sectorCount (zeros (65535 * 4096 + 1)) := by
  rw [sectorCount, sectorCount, zeros, zeros, List.length_replicate, List.length_replicate]
  decide
/-- All sectors produced; none produced yet. -/
theorem witness_InitSegmentsThenSendsStart :
    (turnReady (atTurn .init [] []) (p4Session .init) ∧ (p4Session .init).phase = .init ∧
      sectorCount (p4Session .init).image ≤ (p4Session .init).sectors.length ∧
      (p4Session .init).image.length < 4294967296) ∧
    (turnReady { atTurn .init [] [] with session := some { p4Session .init with sectors := [] } }
        { p4Session .init with sectors := [] } ∧
      ([] : List Msg).length < sectorCount (p4Session .init).image) :=
  ⟨⟨⟨rfl, rfl, rfl⟩, rfl, by decide, by decide⟩, ⟨⟨rfl, rfl, rfl⟩, by decide⟩⟩
theorem witness_StartSentinelResendsStart :
    turnReady (atTurn .awaitingStartAck [⟨3, 1, 0xFFFF⟩] []) (p4Session .awaitingStartAck) ∧
    (p4Session .awaitingStartAck).phase = .awaitingStartAck ∧
    (atTurn .awaitingStartAck [⟨3, 1, 0xFFFF⟩] []).cmdQueue = ⟨3, 1, 0xFFFF⟩ :: [] ∧
    (p4Session .awaitingStartAck).image.length < 4294967296 := ⟨⟨rfl, rfl, rfl⟩, rfl, rfl, by decide⟩
/-- Nothing to read, rejected, accepted with a sector that can be sent, and both ends of the unnamed responses. -/
theorem witness_StartResponseDecides :
    (∀ q, turnReady (atTurn .awaitingStartAck q []) (p4Session .awaitingStartAck) ∧
      (atTurn .awaitingStartAck q []).cmdQueue = q ∧ (p4Session .awaitingStartAck).phase = .awaitingStartAck) ∧
    (⟨3, 1, 0x0001⟩ : CackRecord).response = 0x0001 ∧
    ((⟨3, 1, 0x0000⟩ : CackRecord).response = 0x0000 ∧ (p4Session .awaitingStartAck).sectors[0]? = some p4Sector ∧
      7 ≤ (atTurn .awaitingStartAck [⟨3, 1, 0x0000⟩] []).unitSize ∧
      chunkCount p4Sector.length (maxChunkPayload (atTurn .awaitingStartAck [] []).unitSize).toNat ≤ 256) ∧
    (0x0002 ≤ (0x0002 : Word16).toNat ∧ (0xFFFE : Word16).toNat ≤ 0xFFFE) :=
  ⟨fun _ => ⟨⟨rfl, rfl, rfl⟩, rfl, rfl⟩, rfl, by decide, by decide⟩
/-- Accepted with a sector that needs too many chunks: the host stops. -/
theorem witness_StartResponseDecides_tooMany :
    (longSession .awaitingStartAck).phase = .awaitingStartAck ∧
    (longTurn .awaitingStartAck [⟨3, 1, 0⟩] []).cmdQueue = ⟨3, 1, 0⟩ :: [] ∧
    256 < chunkCount (zeros 257).length (maxChunkPayload (longTurn .awaitingStartAck [⟨3, 1, 0⟩] []).unitSize).toNat :=
  ⟨rfl, rfl, (longSession_tooMany _ _ _).2.2.2.2⟩
/-- The last sector of one; the first sector of two. -/
theorem witness_SectorSuccessAdvances :
    (turnReady (atTurn .awaitingSectorAck [] [⟨0, 0, 0⟩]) (p4Session .awaitingSectorAck) ∧
      (atTurn .awaitingSectorAck [] [⟨0, 0, 0⟩]).fwQueue = ⟨0, 0, 0⟩ :: [] ∧
      (p4Session .awaitingSectorAck).cursor + 1 = sectorCount (p4Session .awaitingSectorAck).image) ∧
    (turnReady { atTurn .awaitingSectorAck [] [⟨0, 0, 0⟩] with session := some twoSectors } twoSectors ∧
      twoSectors.phase = .awaitingSectorAck ∧ twoSectors.cursor + 1 ≠ sectorCount twoSectors.image ∧
      twoSectors.sectors[twoSectors.cursor + 1]? = some [4, 5, 6] ∧
      7 ≤ (atTurn .awaitingSectorAck [] [⟨0, 0, 0⟩]).unitSize ∧ chunkCount 3 (maxChunkPayload 10).toNat ≤ 256) :=
  ⟨⟨⟨rfl, rfl, rfl⟩, rfl, by decide⟩, ⟨⟨rfl, rfl, rfl⟩, rfl, by decide +kernel, rfl, by decide, by decide⟩⟩
/-- Success with a next sector that needs too many chunks; the other premises are `longSession_tooMany`'s. -/
theorem witness_SectorSuccessAdvances_tooMany :
    (longTurn .awaitingSectorAck [] [⟨0, 0, 0⟩]).fwQueue = ⟨0, 0, 0⟩ :: [] ∧
    (longSession .awaitingSectorAck).cursor + 1 ≠ sectorCount (longSession .awaitingSectorAck).image ∧
    (longSession .awaitingSectorAck).sectors[(longSession .awaitingSectorAck).cursor + 1]? = some (zeros 257) :=
  ⟨rfl, by decide +kernel, rfl⟩
/-- Nothing to read; the three corruption statuses; a redirect inside the image and one just past it; the statuses at both
ends of "any other". -/
theorem witness_SectorErrorsResendRedirectAbort :
    (∀ q, turnReady (atTurn .awaitingSectorAck [] q) (p4Session .awaitingSectorAck) ∧
      (atTurn .awaitingSectorAck [] q).fwQueue = q ∧ (p4Session .awaitingSectorAck).phase = .awaitingSectorAck) ∧
    ((⟨0, 0x0001, 0⟩ : FackRecord).status = 0x0001 ∧ (⟨0, 0x0003, 0⟩ : FackRecord).status = 0x0003 ∧
      (⟨0, 0xFFFF, 0⟩ : FackRecord).status = 0xFFFF ∧
      (p4Session .awaitingSectorAck).sectors[(p4Session .awaitingSectorAck).cursor]? = some p4Sector ∧
      7 ≤ (atTurn .awaitingSectorAck [] []).unitSize ∧
      chunkCount p4Sector.length (maxChunkPayload (atTurn .awaitingSectorAck [] []).unitSize).toNat ≤ 256) ∧
    ((⟨0, 0x0002, 0⟩ : FackRecord).status = 0x0002 ∧
      (p4Session .awaitingSectorAck).sectors[(⟨0, 0x0002, 0⟩ : FackRecord).currentSector.toNat]? = some p4Sector) ∧
    (p4Session .awaitingSectorAck).sectors.length ≤ (⟨0, 0x0002, 1⟩ : FackRecord).currentSector.toNat ∧
    (0x0004 ≤ (0x0004 : Word16).toNat ∧ (0xFFFE : Word16).toNat ≤ 0xFFFE) :=
  ⟨fun _ => ⟨⟨rfl, rfl, rfl⟩, rfl, rfl⟩, by decide, by decide, by decide, by decide⟩
/-- A resend and a redirect of a sector that needs too many chunks; the other premises are `longSession_tooMany`'s. -/
theorem witness_SectorErrorsResendRedirectAbort_tooMany :
    (∀ q, (longTurn .awaitingSectorAck [] q).fwQueue = q) ∧
    (longSession .awaitingSectorAck).sectors[(longSession .awaitingSectorAck).cursor]? = some (zeros 257) ∧
    (longSession .awaitingSectorAck).sectors[(⟨0, 0x0002, 1⟩ : FackRecord).currentSector.toNat]? = some (zeros 257) :=
  ⟨fun _ => rfl, rfl, rfl⟩
theorem witness_LinkLossAbortsLiveSession :
    (p4 .uploadingSector [.disconnect]).inputs = .disconnect :: [] ∧
    (p4 .uploadingSector [.disconnect]).session = some (p4Session .uploadingSector) ∧
    sessionLive (p4 .uploadingSector [.disconnect]) = true ∧ sessionLive (p4 .aborted [.disconnect]) = false := by
  decide
/-- A turn in each final state and with no session, a step that opens none, and a session opened over a final one. -/
theorem witness_FinalSessionsStay :
    ((p4 .complete [.turn]).jobs = [] ∧ sessionLive (p4 .complete [.turn]) = false) ∧
    ((p4 .aborted [.turn]).jobs = [] ∧ sessionLive (p4 .aborted [.turn]) = false) ∧
    ((block 0 false false 0 [.turn]).session = none ∧ (block 0 false false 0 [.turn]).jobs = []) ∧
    (sessionLive (p4 .aborted [.disconnect]) = false ∧ steps (p4 .aborted [.disconnect]) = true ∧
      (p4 .aborted [.disconnect]).inputs.head? = some .disconnect) ∧
    ((p4 .complete [.openSession [1] 7]).inputs = .openSession [1] 7 :: [] ∧
      sessionLive (p4 .complete [.openSession [1] 7]) = false ∧ ([1] : Msg) ≠ [] ∧ 7 ≤ 7 ∧
      ([1] : Msg).length < 4294967296 ∧ sectorCount [1] ≤ 65535) := by decide +kernel

/-- The invariant holds of a session in the middle of an upload, not only at reset. -/
theorem witness_InvariantKeptByEveryStep : Inv (p4Upload [.turn]) ∧ steps (p4Upload [.turn]) = true := by
  refine ⟨⟨⟨by decide, by decide⟩, ?_, ?_, ?_, fun _ => ⟨rfl, rfl, rfl⟩⟩, by decide +kernel⟩
  · show ∀ j ∈ chunkJobs p4Sector 4 0xFFFF, 1 ≤ j.payload.length ∧ j.payload.length ≤ 509
    decide
  · show (1 : Int) ≤ maxChunkPayload 10
    decide
  · intro S h
    cases h
    exact ⟨by decide, by decide, by decide, by decide +kernel, fun _ => by decide +kernel, fun _ => by decide,
      fun _ => by decide, fun h => by cases h⟩
/-- The two kinds of event that are not a turn: a payload of a wrong length, and one that no subscription takes. -/
theorem witness_HostMovesAreNeverRefused :
    (p4Upload [.turn]).inputs = .turn :: [] ∧ (State.reset).subCmd = false ∧
    steps (placeInput (.wire .cmdAck (zeros 20)) State.reset) = true ∧
    steps (placeInput (.wire .sectorAck (zeros 19)) (p4Upload [])) = true := by decide +kernel

end Sys2Proof.Tests
end

section
/-! PROOFS. The statements about the state (spec/10_state.md): the status register, the frame of each instruction, and
the invariant that every step keeps. -/

namespace Sys2Proof.Machine

/-! ## Reading the registers -/

/-- Settles O2, from the layout that `stByte` puts together. -/
theorem statusByteLayout : Obligations.StatusByteLayout := by
  have layout : ∀ (eq err : Bool) (ecode : BitVec 3),
      (stByte eq err ecode).getLsbD 0 = eq ∧ (stByte eq err ecode).getLsbD 1 = err ∧
      (stByte eq err ecode).extractLsb' 2 3 = ecode ∧ (stByte eq err ecode).extractLsb' 5 3 = 0 := by decide
  exact fun s => layout s.stEq s.stErr s.stEcode

/-- Settles O3, by the meaning of a read event for each register. -/
theorem hostReadChangesNothing : Obligations.HostReadChangesNothing := by
  intro s rest
  refine ⟨fun h => ?_, fun h => ?_⟩
  · rw [step_read s .acc rest h]
    simp [readRegister, takeInput, readAcc, h]
  · rw [step_read s .st rest h]
    simp [readRegister, takeInput, h]

/-- Settles O5, by what a step does with an event that decodes and with one that does not. -/
theorem stepRunsDecodedInstruction : Obligations.StepRunsDecodedInstruction := by
  intro s rest i
  refine ⟨fun cw mi h hd => step_issue_ok s cw mi rest i h hd, fun kind m h hd => step_wire_ok s kind m rest i h hd,
    fun cw mi h => ⟨step_issue_error s cw mi rest .illegalOp h, step_issue_error s cw mi rest .badOperand h⟩, ?_⟩
  intro kind m e h hd hkind
  rw [step_wire_error s kind m rest e h hd]
  rcases hkind with rfl | rfl | rfl <;> rfl

/-! ## The status register over a step -/

/-- A set `ERR` outlives every step that is no reset, and `ECODE` with it (R24, R25). -/
theorem BlockChange.err_sticky {s t : State} (h : BlockChange s t) (hr : s.inputs.head? ≠ some .reset)
    (he : s.stErr = true) : t.stErr = true ∧ t.stEcode = s.stEcode := by
  cases h with
  | quiet _ _ err ecode _ => exact ⟨err.trans he, ecode⟩
  | refused c _ _ err ecode _ => exact ⟨err, by simpa [he] using ecode⟩
  | done _ _ _ err ecode _ => exact ⟨err.trans he, ecode⟩
  | reset rest head => simp [head] at hr

/-- `ECODE` keeps its value over a step that leaves `ERR` at 0 and is no reset (R25). -/
theorem BlockChange.ecode_kept {s t : State} (h : BlockChange s t) (hr : s.inputs.head? ≠ some .reset)
    (he : t.stErr = false) : t.stEcode = s.stEcode := by
  cases h with
  | quiet _ _ _ ecode _ => exact ecode
  | refused c _ _ err _ _ => simp [err] at he
  | done _ _ _ _ ecode _ => exact ecode
  | reset rest head => simp [head] at hr

/-- Where `ERR` becomes set, an issue was refused and its code is recorded (R24, R172). -/
theorem BlockChange.first_refusal {s t : State} (h : BlockChange s t) (hs : s.stErr = false) (ht : t.stErr = true) :
    ∃ c, t.completions = s.completions ++ [.refused c] ∧ t.stEcode = refusalValue c := by
  cases h with
  | quiet _ _ err _ _ => simp [err, hs] at ht
  | refused c _ _ _ ecode completions => exact ⟨c, completions, by simpa [hs] using ecode⟩
  | done _ _ _ err _ _ => simp [err, hs] at ht
  | reset _ _ _ _ err _ _ => simp [err] at ht

/-- A step that adds a refused completion sets `ERR`, records the code if it is the first, and keeps `EQ` (R172,
R177). -/
theorem BlockChange.of_refused_completion {s t : State} (h : BlockChange s t) (c : RefusalCode)
    (hc : t.completions = s.completions ++ [.refused c]) :
    t.stEq = s.stEq ∧ t.stErr = true ∧ t.stEcode = if s.stErr then s.stEcode else refusalValue c := by
  cases h with
  | quiet _ _ _ _ completions => simp [completions] at hc
  | refused c' _ eq err ecode completions =>
    obtain rfl : c' = c := by simpa [completions] using hc
    exact ⟨eq, err, ecode⟩
  | done _ _ _ _ _ completions => simp [completions] at hc
  | reset _ _ _ _ _ _ completions => simp [completions] at hc

/-- `ECODE` is 0 while `ERR` is 0, over every step (R25). -/
theorem BlockChange.ecode_zero {s t : State} (h : BlockChange s t) (hs : s.stErr = false → s.stEcode = 0)
    (ht : t.stErr = false) : t.stEcode = 0 := by
  cases h with
  | quiet _ _ err ecode _ => rw [ecode, hs (err ▸ ht)]
  | refused c _ _ err _ _ => simp [err] at ht
  | done _ _ _ err ecode _ => rw [ecode, hs (err ▸ ht)]
  | reset _ _ _ _ _ ecode _ => exact ecode

/-- Whatever stands in `ERR` and `ECODE`, an issue gets the same answer and leaves `ACC` and `EQ` alike (R24, R25). -/
theorem step_issue_ignores_err (s : State) (cw : CmdWord) (mi : Msg) (rest : List Input) (err : Bool)
    (ecode : BitVec 3) (h : s.inputs = .issue cw mi :: rest) :
    ∃ t u c, step s = .next t ∧ step { s with stErr := err, stEcode := ecode } = .next u ∧
      t.completions = s.completions ++ [c] ∧ u.completions = s.completions ++ [c] ∧ u.acc = t.acc ∧
      u.stEq = t.stEq := by
  cases hd : decodeWord cw with
  | error e =>
    exact ⟨_, _, _, step_issue_error s cw mi rest e h hd, step_issue_error _ cw mi rest e h hd, rfl, rfl, rfl, rfl⟩
  | ok i =>
    rw [step_issue_ok s cw mi rest i h hd, step_issue_ok { s with stErr := err, stEcode := ecode } cw mi rest i h hd]
    have hm := inputMessage_issue s cw mi rest h
    have hm' := inputMessage_issue { s with stErr := err, stEcode := ecode } cw mi rest h
    rcases exec_operation_eq i mi (isOperation_of_decodeWord cw i hd) with hx | ⟨out, hx⟩
    · exact ⟨_, _, _, hx s hm, hx _ hm', rfl, rfl, rfl, rfl⟩
    · exact ⟨_, _, _, hx s hm, hx _ hm', rfl, rfl, rfl, rfl⟩

/-- Settles O10, from the four ways a step can leave the block. -/
theorem errIsSticky : Obligations.ErrIsSticky := by
  refine ⟨fun s t h => ?_, rfl, rfl, step_issue_ignores_err⟩
  have hb := step_blockChange s t h
  refine ⟨hb.err_sticky, fun _ ht hr => hb.ecode_kept hr ht, hb.first_refusal, fun hs c hc => ?_, hb.ecode_zero⟩
  obtain ⟨-, herr, hecode⟩ := hb.of_refused_completion c hc
  exact ⟨herr, by simpa [hs] using hecode⟩

/-- Settles O11: only a done issue or the reset leaves another `ACC`. -/
theorem accWrittenByThreeOperations : Obligations.AccWrittenByThreeOperations := by
  intro s t h hne
  cases step_blockChange s t h with
  | quiet acc => exact absurd acc hne
  | refused _ acc => exact absurd acc hne
  | done _ acc => exact acc hne
  | reset rest head => exact ⟨_, rest, head, rfl⟩

/-- Settles O13: only a done issue or the reset leaves another `EQ`, and a refused issue none. -/
theorem eqWrittenByComparisonsOnly : Obligations.EqWrittenByComparisonsOnly := by
  refine ⟨fun s t h hne => ?_, fun s t c _ _ _ _ h hc => ((step_blockChange s t h).of_refused_completion c hc).1⟩
  cases step_blockChange s t h with
  | quiet _ eq => exact absurd eq hne
  | refused _ _ eq => exact absurd eq hne
  | done _ _ eq => exact eq hne
  | reset rest head => exact ⟨_, rest, head, rfl⟩

/-! ## The frame of each instruction -/

/-- Settles O30, from the two ways an operation of the block can end. -/
theorem operationsTouchOnlyTheirRegisters : Obligations.OperationsTouchOnlyTheirRegisters := by
  intro i s t hop h
  rcases exec_operation_cases i s hop with hr | ⟨out, a, e, hr, ha, he⟩
  · obtain rfl : refuse .badLength s = t := by simpa [hr] using h
    exact ⟨fun _ => rfl, fun _ => rfl, fun hc => absurd rfl (hc .badLength), by simp⟩
  · obtain rfl : emit out { s with acc := a, stEq := e } = t := by simpa [hr] using h
    exact ⟨ha, he, fun _ => ⟨rfl, rfl⟩, by simp⟩

/-- Settles O31: on one message an operation is refused in every state, or gives one output in every state. -/
theorem outputDependsOnIssueAlone : Obligations.OutputDependsOnIssueAlone := by
  intro i s s' t t' hop hm h h'
  rcases exec_operation_eq i (inputMessage s') hop with hx | ⟨out, hx⟩
  · rw [hx s hm] at h
    rw [hx s' rfl] at h'
    cases h
    cases h'
    exact ⟨⟨_, rfl, rfl⟩, fun _ hc => by simp at hc⟩
  · rw [hx s hm] at h
    rw [hx s' rfl] at h'
    cases h
    cases h'
    refine ⟨⟨_, rfl, rfl⟩, fun hi _ => ?_⟩
    rcases hi with rfl | rfl <;> rfl

/-- A payload on the command-ack channel touches `EQ`, the completions, that channel's queue and the free values. -/
theorem dispatchCack_frame (m : Msg) (s : State) : ∃ e cs q n, dispatchCack m s =
    { s with inputs := s.inputs.tail, stEq := e, completions := cs, cmdQueue := q, freeIdx := n } := by
  by_cases hs : s.subCmd = true
  · by_cases hm : m.length = 20
    · exact ⟨_, _, _, _, dispatchCack_decoded m s hs hm⟩
    · exact ⟨_, _, _, _, dispatchCack_dropped m s hs hm⟩
  · exact ⟨_, _, _, _, dispatchCack_unsubscribed m s (eq_false_of_ne_true hs)⟩

/-- A payload on the firmware-ack channel touches `EQ`, the completions, that channel's queue and the free values. -/
theorem dispatchFack_frame (m : Msg) (s : State) : ∃ e cs q n, dispatchFack m s =
    { s with inputs := s.inputs.tail, stEq := e, completions := cs, fwQueue := q, freeIdx := n } := by
  by_cases hs : s.subFw = true
  · by_cases hm : m.length = 20
    · exact ⟨_, _, _, _, dispatchFack_decoded m s hs hm⟩
    · exact ⟨_, _, _, _, dispatchFack_dropped m s hs hm⟩
  · exact ⟨_, _, _, _, dispatchFack_unsubscribed m s (eq_false_of_ne_true hs)⟩

/-- Settles O42, one case for each of the five wire structures. -/
theorem wireStructuresKeepRegisters : Obligations.WireStructuresKeepRegisters := by
  intro i s t hop h
  cases i with
  | frameStartCmd size trailer =>
    cases h
    simp
  | frameCmdAck a b c reserved trailer =>
    obtain ⟨e, cs, q, n, hd⟩ := dispatchCack_frame (ackBytes a b c reserved trailer) s
    obtain rfl : _ = t := by simpa [exec, execFrameCmdAck, hd] using h
    simp [writesEq]
  | frameSectorAck a b c reserved trailer =>
    obtain ⟨e, cs, q, n, hd⟩ := dispatchFack_frame (ackBytes a b c reserved trailer) s
    obtain rfl : _ = t := by simpa [exec, execFrameSectorAck, hd] using h
    simp [writesEq]
  | frameChunk tag seq payload =>
    cases h
    simp
  | frameSector payload trailer =>
    obtain ⟨-, -, rfl⟩ := sendSector_next _ _ _ _ h
    simp
  | _ => simp [isOperation] at hop

/-! ## The invariant: the status register -/

theorem statusInv_of_eq {s t : State} (h : statusInv s) (err : t.stErr = s.stErr) (ecode : t.stEcode = s.stEcode) :
    statusInv t := by
  simpa only [statusInv, err, ecode] using h

/-- Each refusal code is one of 1 to 3 (R173). -/
theorem refusalValue_range (c : RefusalCode) : refusalValue c ≠ 0 ∧ (refusalValue c).toNat ≤ 3 := by
  cases c <;> decide

theorem BlockChange.keeps_statusInv {s t : State} (h : BlockChange s t) (hs : statusInv s) : statusInv t := by
  cases h with
  | quiet _ _ err ecode _ => exact statusInv_of_eq hs err ecode
  | refused c _ _ err ecode _ =>
    obtain ⟨hzero, hle⟩ := hs
    obtain ⟨hne, hc⟩ := refusalValue_range c
    cases he : s.stErr with
    | false => simpa [statusInv, err, ecode, he] using ⟨hne, hc⟩
    | true =>
      have hset : s.stEcode ≠ 0 := by simpa [he] using hzero
      simpa [statusInv, err, ecode, he] using ⟨hset, hle⟩
  | done _ _ _ err ecode _ => exact statusInv_of_eq hs err ecode
  | reset _ _ _ _ err ecode _ => simp [statusInv, err, ecode]

/-! ## The invariant: the chunks to be sent -/

/-- No unit size gives more than 509 bytes of payload (R139). -/
theorem maxChunkPayload_le (u : Nat) : maxChunkPayload u ≤ 509 := by
  simp only [maxChunkPayload, Params.chunkCap, Params.transportOverhead, Params.chunkHdrLen]
  omega

/-- The chunks of a sector join those to be sent without harm when the unit size gives a payload. -/
theorem jobsInv_append_chunkJobs {s t : State} (h : jobsInv s) (sector : Msg) (tag : Word16) (u : Nat)
    (hu : 1 ≤ maxChunkPayload u) (ht : t.jobs = s.jobs ++ chunkJobs sector (maxChunkPayload u).toNat tag) :
    jobsInv t := by
  have hle := maxChunkPayload_le u
  intro j hj
  rw [ht, List.mem_append] at hj
  rcases hj with hj | hj
  · exact h j hj
  · obtain ⟨h1, h2⟩ := chunkJobs_payload sector _ tag (by omega) j hj
    exact ⟨h1, by simp only [Params.chunkPayloadMax]; omega⟩

theorem jobsInv_of_subset {s t : State} (h : jobsInv s) (ht : t.jobs ⊆ s.jobs) : jobsInv t :=
  fun j hj => h j (ht hj)

/-! ## The invariant: the session -/

/-- Once the Start Command is out the segmentation is whole. -/
theorem sessionInv_whole {S : Session} {js : List ChunkJob} (h : sessionInv S js)
    (hp : S.phase = .awaitingStartAck ∨ S.phase = .uploadingSector ∨ S.phase = .awaitingSectorAck ∨
      S.phase = .complete) : S.sectors = segmentImage S.image := by
  obtain ⟨-, -, -, -, hwhole, -⟩ := h
  exact hwhole hp

/-- While a sector is sent or awaited the cursor is inside the image. -/
theorem sessionInv_cursor {S : Session} {js : List ChunkJob} (h : sessionInv S js)
    (hp : S.phase = .uploadingSector ∨ S.phase = .awaitingSectorAck ∨ S.phase = .complete) :
    S.cursor < sectorCount S.image := by
  obtain ⟨-, -, -, -, -, hcursor, -⟩ := h
  exact hcursor hp

/-- While a sector is uploaded chunks are left to send. -/
theorem sessionInv_jobs_ne_nil {S : Session} {js : List ChunkJob} (h : sessionInv S js)
    (hp : S.phase = .uploadingSector) : js ≠ [] := by
  obtain ⟨-, -, -, -, -, -, hjobs, -⟩ := h
  exact hjobs hp

/-- A session that moves to another phase and cursor keeps its invariant when the new phase's own conditions hold. -/
theorem sessionInv_move {S : Session} {js : List ChunkJob} (h : sessionInv S js) (p : Phase) (c : Nat)
    (js' : List ChunkJob)
    (hwhole : p = .awaitingStartAck ∨ p = .uploadingSector ∨ p = .awaitingSectorAck ∨ p = .complete →
      S.sectors = segmentImage S.image)
    (hcursor : p = .uploadingSector ∨ p = .awaitingSectorAck ∨ p = .complete → c < sectorCount S.image)
    (hjobs : p = .uploadingSector → js' ≠ [])
    (hlast : p = .complete → c + 1 = sectorCount S.image) :
    sessionInv { S with cursor := c, phase := p } js' := by
  obtain ⟨himage, hlen, hcount, hprefix, -⟩ := h
  exact ⟨himage, hlen, hcount, hprefix, hwhole, hcursor, hjobs, hlast⟩

/-- The chunks to be sent concern a session only while it uploads. -/
theorem sessionInv_jobs {S : Session} {js : List ChunkJob} (h : sessionInv S js) (js' : List ChunkJob)
    (hjobs : S.phase = .uploadingSector → js' ≠ []) : sessionInv S js' := by
  obtain ⟨himage, hlen, hcount, hprefix, hwhole, hcursor, -, hlast⟩ := h
  exact ⟨himage, hlen, hcount, hprefix, hwhole, hcursor, hjobs, hlast⟩

theorem sessionInv_aborted {S : Session} {js : List ChunkJob} (h : sessionInv S js) (js' : List ChunkJob) :
    sessionInv { S with phase := .aborted } js' :=
  sessionInv_move h .aborted S.cursor js' (by simp) (by simp) (by simp) (by simp)

/-- With its last chunk written a session awaits the acknowledgement, and no chunk need be left (R155). -/
theorem sessionInv_uploaded {S : Session} {js : List ChunkJob} (h : sessionInv S js) (js' : List ChunkJob) :
    sessionInv (uploaded S) js' := by
  unfold uploaded
  split
  next hp =>
    exact sessionInv_move h .awaitingSectorAck S.cursor js' (fun _ => sessionInv_whole h (by simp [hp]))
      (fun _ => sessionInv_cursor h (by simp [hp])) (by simp) (by simp)
  next hp => exact sessionInv_jobs h js' (fun hu => absurd hu hp)

theorem sessionInv_startSent {S : Session} {js : List ChunkJob} (h : sessionInv S js)
    (hwhole : S.sectors = segmentImage S.image) : sessionInv { S with phase := .awaitingStartAck } js :=
  sessionInv_move h .awaitingStartAck S.cursor js (fun _ => hwhole) (by simp) (by simp) (by simp)

/-- A segmentation as long as it is to be is whole (R137). -/
theorem sectors_whole {S : Session} {js : List ChunkJob} (h : sessionInv S js)
    (hlen : sectorCount S.image ≤ S.sectors.length) : S.sectors = segmentImage S.image := by
  obtain ⟨-, -, -, hprefix, -⟩ := h
  rwa [List.take_of_length_le (by simpa using hlen)] at hprefix

/-- The next sector lengthens the segmentation so far by one (R137). -/
theorem sectors_extend {image : Msg} {sectors : List Msg} (h : sectors = (segmentImage image).take sectors.length)
    (hlt : sectors.length < sectorCount image) :
    sectors ++ [withTrailer (window image sectors.length)] = (segmentImage image).take (sectors.length + 1) := by
  have hget : (segmentImage image)[sectors.length]? = some (withTrailer (window image sectors.length)) := by
    simp [segmentImage, hlt]
  rw [List.take_add_one, hget, ← h]
  rfl

theorem sessionInv_sectorProduced {S : Session} {js : List ChunkJob} (h : sessionInv S js) (hp : S.phase = .init)
    (hlt : S.sectors.length < sectorCount S.image) :
    sessionInv { S with sectors := S.sectors ++ [withTrailer (window S.image S.sectors.length)] } js := by
  obtain ⟨himage, hlen, hcount, hprefix, -⟩ := h
  exact ⟨himage, hlen, hcount, by simpa using sectors_extend hprefix hlt, by simp [hp], by simp [hp], by simp [hp],
    by simp [hp]⟩

/-- Every sector of an image holds at least its trailer. -/
theorem sector_ne_nil {image sector : Msg} {i : Nat} (h : (segmentImage image)[i]? = some sector) : sector ≠ [] := by
  obtain ⟨-, rfl⟩ := segmentImage_get image i sector h
  simp [withTrailer, le16]

/-- An upload begins at a sector that exists, with that sector's chunks to be sent (R153, R155, R159). -/
theorem sessionInv_uploading {S : Session} {js : List ChunkJob} (h : sessionInv S js) (i : Nat) (sector : Msg)
    (m : Nat) (tag : Word16) (js' : List ChunkJob) (hwhole : S.sectors = segmentImage S.image)
    (hs : S.sectors[i]? = some sector) (hm : 1 ≤ m) :
    sessionInv { S with cursor := i, phase := .uploadingSector } (js' ++ chunkJobs sector m tag) := by
  rw [hwhole] at hs
  refine sessionInv_move h .uploadingSector i _ (fun _ => hwhole)
    (fun _ => (segmentImage_get S.image i sector hs).1) (fun _ => ?_) (by simp)
  exact List.append_ne_nil_of_right_ne_nil _ (chunkJobs_ne_nil sector m tag (sector_ne_nil hs) hm)

theorem sessionInv_complete {S : Session} {js : List ChunkJob} (h : sessionInv S js) (js' : List ChunkJob)
    (hwhole : S.sectors = segmentImage S.image) (hl : S.cursor + 1 = sectorCount S.image) :
    sessionInv { S with phase := .complete } js' :=
  sessionInv_move h .complete S.cursor js' (fun _ => hwhole) (fun _ => by omega) (by simp) (fun _ => hl)

/-- A session just opened has produced no sector (R137, R149). -/
theorem sessionInv_opened {image : Msg} (himage : image ≠ []) (hlen : image.length < 4294967296)
    (hcount : sectorCount image ≤ 65535) (js : List ChunkJob) :
    sessionInv { image := image, sectors := [], cursor := 0, phase := .init } js :=
  ⟨himage, hlen, hcount, rfl, by simp, by simp, by simp, by simp⟩

/-! ## The invariant: the host -/

/-- The part of the invariant that is the host's and not the block's. -/
structure HostInv (s : State) : Prop where
  jobs : jobsInv s
  unit : unitInv s
  session : ∀ S, s.session = some S → sessionInv S s.jobs
  link : linkInv s

theorem inv_iff (s : State) : Inv s ↔ statusInv s ∧ HostInv s :=
  ⟨fun ⟨status, jobs, unit, session, link⟩ => ⟨status, jobs, unit, session, link⟩,
    fun ⟨status, jobs, unit, session, link⟩ => ⟨status, jobs, unit, session, link⟩⟩

/-- The fields that the host's part of the invariant reads, other than the session and the chunks, are the same. -/
def SameLink (s t : State) : Prop :=
  t.unitSize = s.unitSize ∧ t.subCmd = s.subCmd ∧ t.subFw = s.subFw ∧ t.linkClosed = s.linkClosed

theorem sessionLive_congr {s t : State} (h : t.session = s.session) : sessionLive t = sessionLive s := by
  simp [sessionLive, h]

theorem sessionLive_some {s : State} {S : Session} (h : s.session = some S) :
    sessionLive s = true ↔ S.phase ≠ .complete ∧ S.phase ≠ .aborted := by
  simp [sessionLive, h]

/-- A state whose session is live only where it was before keeps the link's invariant. -/
theorem linkInv_of_live {s t : State} (h : linkInv s) (hsame : SameLink s t)
    (hlive : sessionLive t = true → sessionLive s = true) : linkInv t := by
  obtain ⟨-, hcmd, hfw, hclosed⟩ := hsame
  intro ht
  rw [hcmd, hfw, hclosed]
  exact h (hlive ht)

/-- A step that keeps session, chunks and link keeps the host's invariant. -/
theorem HostInv.of_same {s t : State} (h : HostInv s) (hS : t.session = s.session) (hj : t.jobs = s.jobs)
    (hsame : SameLink s t) : HostInv t where
  jobs := jobsInv_of_subset h.jobs (by simp [hj])
  unit := by simpa [unitInv, hsame.1] using h.unit
  session S hS' := by rw [hj]; exact h.session S (hS ▸ hS')
  link := linkInv_of_live h.link hsame (by simp [sessionLive_congr hS])

theorem HostInv.takeInput {s : State} (h : HostInv s) : HostInv (takeInput s) :=
  h.of_same rfl rfl ⟨rfl, rfl, rfl, rfl⟩

/-- A move of a live session keeps the host's invariant when the session moved to and the chunks left keep theirs. -/
theorem HostInv.of_session {s t : State} (h : HostInv s) {S S' : Session} (hS : s.session = some S)
    (hlive : S.phase ≠ .complete ∧ S.phase ≠ .aborted) (hsame : SameLink s t) (ht : t.session = some S')
    (hS' : sessionInv S' t.jobs) (hjobs : jobsInv t) : HostInv t where
  jobs := hjobs
  unit := by simpa [unitInv, hsame.1] using h.unit
  session S'' h'' := by
    obtain rfl : S' = S'' := by simpa [ht] using h''
    exact hS'
  link := linkInv_of_live h.link hsame (fun _ => (sessionLive_some hS).mpr hlive)

/-- A session that has ended, with the unit size as it was, keeps the host's invariant whatever the link. -/
theorem HostInv.of_ended {s t : State} (h : HostInv s) (hu : t.unitSize = s.unitSize)
    (hjobs : jobsInv t) (hsession : ∀ S, t.session = some S → sessionInv S t.jobs)
    (hlive : sessionLive t = false) : HostInv t where
  jobs := hjobs
  unit := by simpa [unitInv, hu] using h.unit
  session := hsession
  link ht := by simp [hlive] at ht

/-- An aborted session keeps the host's invariant, whichever chunks were given up with it (R152, R160, R161). -/
theorem HostInv.of_aborted {s u : State} (h : HostInv s) {S : Session} {js : List ChunkJob} (hS : sessionInv S js)
    (why : Report) (hu : u.unitSize = s.unitSize) (hjobs : jobsInv u) : HostInv (abortSession why S u) := by
  refine h.of_ended hu hjobs (fun S' h' => ?_) rfl
  cases h'
  exact sessionInv_aborted hS _

/-- More chunks of a sector to be sent keep the host's invariant. -/
theorem HostInv.append_chunkJobs {s t : State} (h : HostInv s) (sector : Msg) (tag : Word16)
    (hu : 1 ≤ maxChunkPayload s.unitSize) (hS : t.session = s.session) (hsame : SameLink s t)
    (ht : t.jobs = s.jobs ++ chunkJobs sector (maxChunkPayload s.unitSize).toNat tag) : HostInv t where
  jobs := jobsInv_append_chunkJobs h.jobs sector tag _ hu ht
  unit := by simpa [unitInv, hsame.1] using h.unit
  session S hS' := by
    have hSinv := h.session S (hS ▸ hS')
    rw [ht]
    exact sessionInv_jobs hSinv _ fun hp => List.append_ne_nil_of_left_ne_nil (sessionInv_jobs_ne_nil hSinv hp) _
  link := linkInv_of_live h.link hsame (by simp [sessionLive_congr hS])

/-! ## The invariant: what each event does to the host -/

theorem exec_keeps_hostInv (i : Instr) (s t : State) (h : HostInv s) (ht : exec i s = .next t) : HostInv t := by
  cases hop : isOperation i with
  | true =>
    obtain ⟨-, -, -, -, -, hS, hj, hu, -, -, hcmd, hfw, hclosed, -⟩ :=
      operationsTouchOnlyTheirRegisters i s t hop ht
    exact h.of_same hS hj ⟨hu, hcmd, hfw, hclosed⟩
  | false =>
    obtain ⟨-, -, -, -, -, hS, hu, hcmd, hfw, hclosed, -, -, -, hj, -⟩ := wireStructuresKeepRegisters i s t hop ht
    by_cases hsector : ∃ p k, i = .frameSector p k
    · obtain ⟨p, k, rfl⟩ := hsector
      obtain ⟨hunit, -, rfl⟩ := sendSector_next _ _ _ _ ht
      exact h.append_chunkJobs _ _ hunit rfl ⟨rfl, rfl, rfl, rfl⟩ rfl
    · exact h.of_same hS (hj fun p k hi => hsector ⟨p, k, hi⟩) ⟨hu, hcmd, hfw, hclosed⟩

theorem badFrame_keeps_hostInv (kind : WireKind) (m : Msg) (s t : State) (h : HostInv s)
    (ht : badFrame kind m s = .next t) : HostInv t := by
  cases kind with
  | cmdAck =>
    obtain ⟨e, cs, q, n, hd⟩ := dispatchCack_frame m s
    obtain rfl : _ = t := by simpa [badFrame, hd] using ht
    exact h.of_same rfl rfl ⟨rfl, rfl, rfl, rfl⟩
  | sectorAck =>
    obtain ⟨e, cs, q, n, hd⟩ := dispatchFack_frame m s
    obtain rfl : _ = t := by simpa [badFrame, hd] using ht
    exact h.of_same rfl rfl ⟨rfl, rfl, rfl, rfl⟩
  | startCmd => cases ht
  | chunk => cases ht
  | sector => cases ht

/-- The Start Command goes out, whatever records still wait. -/
theorem sendStart_keeps_hostInv (S : Session) (s : State) (q : List CackRecord) (h : HostInv s)
    (hS : s.session = some S) (hlive : S.phase ≠ .complete ∧ S.phase ≠ .aborted)
    (hwhole : S.sectors = segmentImage S.image) : HostInv (sendStart S { s with cmdQueue := q }) := by
  rw [sendStart_eq]
  exact h.of_session hS hlive ⟨rfl, rfl, rfl, rfl⟩ rfl (sessionInv_startSent (h.session S hS) hwhole) h.jobs

theorem ackMove_keeps_hostInv (S : Session) (s t : State) (h : HostInv s) (hS : s.session = some S)
    (hp : S.phase = .awaitingStartAck ∨ S.phase = .awaitingSectorAck) (ht : AckMove S s t) : HostInv t := by
  have hSinv := h.session S hS
  have hlive : S.phase ≠ .complete ∧ S.phase ≠ .aborted := by rcases hp with hp | hp <;> simp [hp]
  have hwhole := sessionInv_whole hSinv (by rcases hp with hp | hp <;> simp [hp])
  cases ht with
  | wait => exact h.takeInput
  | resend q => exact sendStart_keeps_hostInv S s q h hS hlive hwhole
  | upload i sector cq fq rs hs hunit hcount =>
    exact h.of_session hS hlive ⟨rfl, rfl, rfl, rfl⟩ rfl
      (sessionInv_uploading hSinv i sector _ _ _ hwhole hs (by omega))
      (jobsInv_append_chunkJobs h.jobs sector _ _ hunit rfl)
  | complete fq r hl =>
    refine h.of_ended rfl h.jobs (fun S' h' => ?_) rfl
    cases h'
    exact sessionInv_complete hSinv _ hwhole hl
  | abort cq fq r => exact h.of_aborted hSinv r rfl h.jobs

/-- A state in which the session, if it was uploading, awaits the acknowledgement. -/
theorem HostInv.of_uploaded {s t : State} (h : HostInv s) (hS : t.session = s.session.map uploaded)
    (hjobs : jobsInv t) (hsame : SameLink s t) : HostInv t where
  jobs := hjobs
  unit := by simpa [unitInv, hsame.1] using h.unit
  session S' h' := by
    rw [hS, Option.map_eq_some_iff] at h'
    obtain ⟨S, hs, rfl⟩ := h'
    exact sessionInv_uploaded (h.session S hs) _
  link := linkInv_of_live h.link hsame fun ht => by
    cases hs : s.session with
    | none => simp [sessionLive, hS, hs] at ht
    | some S =>
      rw [sessionLive_some (S := uploaded S) (by simp [hS, hs])] at ht
      refine (sessionLive_some hs).mpr ?_
      unfold uploaded at ht
      split at ht
      next hp => simp [hp]
      next => exact ht

theorem sendChunk_keeps_hostInv (job : ChunkJob) (rest : List ChunkJob) (s : State) (h : HostInv s)
    (hj : s.jobs = job :: rest) : HostInv (sendChunk job rest s) := by
  have hjob := h.jobs job (by simp [hj])
  have hrest : rest ⊆ s.jobs := by simp [hj]
  rw [sendChunk_ok job rest s hjob]
  by_cases hr : rest = []
  · exact h.of_uploaded (by simp [hr]) (jobsInv_of_subset h.jobs hrest) ⟨rfl, rfl, rfl, rfl⟩
  · exact { jobs := jobsInv_of_subset h.jobs hrest
            unit := h.unit
            session := fun S hS => sessionInv_jobs (h.session S (by simpa [hr] using hS)) _ (fun _ => hr)
            link := linkInv_of_live h.link ⟨rfl, rfl, rfl, rfl⟩ (by simp [sessionLive, hr]) }

theorem initMove_keeps_hostInv (S : Session) (s : State) (h : HostInv s) (hS : s.session = some S)
    (hp : S.phase = .init) : HostInv (initMove S s) := by
  have hSinv := h.session S hS
  have hlive : S.phase ≠ .complete ∧ S.phase ≠ .aborted := by simp [hp]
  by_cases hlt : S.sectors.length < sectorCount S.image
  · rw [initMove_more S s hlt]
    exact h.of_session hS hlive ⟨rfl, rfl, rfl, rfl⟩ rfl (sessionInv_sectorProduced hSinv hp hlt) h.jobs
  · rw [initMove_done S s (by omega)]
    exact sendStart_keeps_hostInv S s s.cmdQueue h hS hlive (sectors_whole hSinv (by omega))

theorem turnMove_keeps_hostInv (s t : State) (h : HostInv s) (ht : TurnMove s t) : HostInv t := by
  cases ht with
  | chunk job rest hj => exact sendChunk_keeps_hostInv job rest s h hj
  | rest => exact h.takeInput
  | init S _ hS hp => exact initMove_keeps_hostInv S s h hS hp
  | sent => exact h.of_uploaded rfl h.jobs ⟨rfl, rfl, rfl, rfl⟩
  | ack S _ _ hS hp ht => exact ackMove_keeps_hostInv S s t h hS hp ht

theorem openSession_establishes_hostInv (image : Msg) (u : Nat) (s t : State) (ht : openSession image u s = .next t) :
    HostInv t := by
  obtain ⟨-, himage, hunit, hlen, hcount, rfl⟩ := openSession_next image u s t ht
  refine ⟨by simp [jobsInv], hunit, fun S hS => ?_, fun _ => ⟨rfl, rfl, rfl⟩⟩
  cases hS
  exact sessionInv_opened himage hlen hcount []

theorem loseLink_keeps_hostInv (s : State) (h : HostInv s) : HostInv (loseLink s) := by
  cases hl : sessionLive s with
  | false =>
    rw [loseLink_idle s hl]
    refine h.of_ended rfl (by simp [jobsInv]) (fun S hS => sessionInv_jobs (h.session S hS) _ fun hp => ?_) hl
    have hlive : sessionLive s = true := (sessionLive_some hS).mpr (by simp [hp])
    simp [hl] at hlive
  | true =>
    cases hS : s.session with
    | none => simp [sessionLive, hS] at hl
    | some S =>
      rw [loseLink_live s S hS hl]
      exact h.of_aborted (h.session S hS) .transportError rfl (by simp [jobsInv])

theorem step_keeps_hostInv (s t : State) (h : HostInv s) (ht : step s = .next t) : HostInv t := by
  cases hin : s.inputs with
  | nil => rw [step_idle s hin] at ht; cases ht; exact h
  | cons e rest =>
    cases e with
    | issue cw mi =>
      cases hd : decodeWord cw with
      | ok i => exact exec_keeps_hostInv i s t h (step_issue_ok s cw mi rest i hin hd ▸ ht)
      | error e =>
        rw [step_issue_error s cw mi rest e hin hd] at ht
        cases ht
        exact h.of_same rfl rfl ⟨rfl, rfl, rfl, rfl⟩
    | wire kind m =>
      cases hd : decodeWire kind m with
      | ok i => exact exec_keeps_hostInv i s t h (step_wire_ok s kind m rest i hin hd ▸ ht)
      | error e => exact badFrame_keeps_hostInv kind m s t h (step_wire_error s kind m rest e hin hd ▸ ht)
    | turn => exact turnMove_keeps_hostInv s t h (hostTurn_cases s t (step_turn s rest hin ▸ ht))
    | openSession image u =>
      exact openSession_establishes_hostInv image u s t (step_openSession s image u rest hin ▸ ht)
    | disconnect =>
      rw [step_disconnect s rest hin] at ht
      cases ht
      exact loseLink_keeps_hostInv s h
    | read r =>
      rw [step_read s r rest hin] at ht
      cases ht
      exact h.of_same (by simp) (by simp) (by simp [SameLink])
    | reset =>
      rw [step_reset s rest hin] at ht
      cases ht
      exact h.of_same rfl rfl ⟨rfl, rfl, rfl, rfl⟩

/-- Settles O58: the block's part follows from the four ways a step can leave the block, the host's part event by
event. -/
theorem invariantKeptByEveryStep : Obligations.InvariantKeptByEveryStep := by
  intro s t h ht
  obtain ⟨hstatus, hhost⟩ := (inv_iff s).mp h
  exact (inv_iff t).mpr ⟨(step_blockChange s t ht).keeps_statusInv hstatus, step_keeps_hostInv s t hhost ht⟩

end Sys2Proof.Machine
end

section
/-! PROOFS. The statements about issues and completions (spec/20_memory.md): every issue is answered once, completions
only grow, `ACC` over an interleaved run, and a second issue of the same operation. -/

namespace Sys2Proof.Machine

/-! ## Completions -/

/-- Settles O6, from the two ways an issue is answered: refused or done. -/
theorem everyIssueIsAnsweredOnce : Obligations.EveryIssueIsAnsweredOnce := by
  intro s cw mi rest h
  rcases step_issue_cases s cw mi rest h with ⟨c, hs⟩ | ⟨i, out, a, e, -, hs, -⟩
  · exact ⟨_, .refused c, hs, by simp [h], by simp⟩
  · exact ⟨_, .done out, hs, by simp [h], by simp⟩

/-- Settles O7, from the four ways a step can leave the block. -/
theorem completionsOnlyGrow : Obligations.CompletionsOnlyGrow := by
  intro s t h
  cases step_blockChange s t h with
  | quiet _ _ _ _ completions => exact ⟨[], by simpa using completions, by simp⟩
  | refused c _ _ _ _ completions => exact ⟨[.refused c], completions, by simp⟩
  | done out _ _ _ _ completions => exact ⟨[.done out], completions, by simp⟩
  | reset _ _ _ _ _ _ completions => exact ⟨[], by simpa using completions, by simp⟩

/-! ## `ACC` over a run -/

/-- A step whose event cannot write `ACC` keeps it (R21, R53). -/
theorem step_keeps_acc (s t : State) (h : step s = .next t) (hquiet : ∀ e ∈ s.inputs.head?, touchesAcc e = false) :
    t.acc = s.acc := by
  by_contra hne
  obtain ⟨e, rest, hin, he⟩ := accWrittenByThreeOperations s t h hne
  simp [hquiet e (by simp [hin])] at he

/-- Settles O12, by induction on the length of the run. -/
theorem interleavedRunKeepsAcc : Obligations.InterleavedRunKeepsAcc := by
  intro n
  induction n with
  | zero =>
    intro s t h _
    cases h
    rfl
  | succ n ih =>
    intro s u h hquiet
    obtain ⟨t, hst, htu⟩ := runSteps_succ_inv n s u h
    have hfirst : t.acc = s.acc := step_keeps_acc s t hst fun e he =>
      hquiet e (List.mem_of_mem_head? (by simpa [List.head?_take] using he))
    have hrest : u.acc = t.acc := ih t u htu fun e he =>
      hquiet e (List.mem_of_mem_tail (by simpa [List.tail_take_eq_take_tail, step_inputs s t hst] using he))
    exact hrest.trans hfirst

/-! ## The same operation twice -/

/-- Every operation but `CRC.BYTE` leaves in `ACC` what it would leave from its own result (R46). -/
theorem accAfter_idem (i : Instr) (m : Msg) (a : Word16) (h : ∀ b, i ≠ .crcByte b) :
    accAfter i m (accAfter i m a) = accAfter i m a := by
  cases i with
  | crcByte b => exact absurd rfl (h b)
  | _ => rfl

/-- Every operation leaves in `EQ` what it would leave from its own result (R46). -/
theorem eqAfter_idem (i : Instr) (m : Msg) (e : Bool) : eqAfter i m (eqAfter i m e) = eqAfter i m e := by
  cases i with
  | decCack => by_cases hm : m.length ≠ 20 <;> simp [eqAfter, hm]
  | decFack => by_cases hm : m.length ≠ 20 <;> simp [eqAfter, hm]
  | _ => rfl

/-- A second refusal finds `ERR` set and leaves `ST` as it is (R25, R172). -/
theorem readSt_refuse_refuse (c c' : RefusalCode) (s : State) :
    readSt (refuse c' (refuse c s)) = readSt (refuse c s) := by
  simp [readSt]

/-- Settles O32: the message alone decides whether both issues are refused or both are done, and a second refusal and a
second result change no register. -/
theorem secondIssueIsIdempotent : Obligations.SecondIssueIsIdempotent := by
  intro s cw mi rest i h hd hbyte
  have runFirst := step_issue_ok s cw mi _ i h hd
  have hmi := inputMessage_issue s cw mi _ h
  rcases exec_operation_eq i mi (isOperation_of_decodeWord cw i hd) with hx | ⟨out, hx⟩
  · have hin : (refuse .badLength s).inputs = .issue cw mi :: rest := by simp [h]
    have runSecond := step_issue_ok _ cw mi rest i hin hd
    exact ⟨_, _, .refused .badLength, runFirst.trans (hx s hmi),
      runSecond.trans (hx _ (inputMessage_issue _ cw mi rest hin)), rfl, rfl, rfl, readSt_refuse_refuse _ _ s⟩
  · have hin : (emit out { s with acc := accAfter i mi s.acc, stEq := eqAfter i mi s.stEq }).inputs =
        .issue cw mi :: rest := by simp [h]
    have runSecond := step_issue_ok _ cw mi rest i hin hd
    exact ⟨_, _, .done out, runFirst.trans (hx s hmi),
      runSecond.trans (hx _ (inputMessage_issue _ cw mi rest hin)), rfl, rfl,
      by simp [accAfter_idem i mi s.acc hbyte], by simp [readSt, eqAfter_idem]⟩

end Sys2Proof.Machine
end

section
/-! PROOFS. The statements about the encoding (spec/30_encoding.md): decoding and encoding are inverse for command words
and for the five wire structures, the tests of an issue come in the order of R64, and what the two frames of this side
hold and do. -/

namespace Sys2Proof.Machine

/-! ## Operands in the argument (R63) -/

/-- A field of a bit vector, as a number. -/
theorem extractLsb'_toNat_div (x : BitVec w) (o n : Nat) : (x.extractLsb' o n).toNat = x.toNat / 2 ^ o % 2 ^ n := by
  rw [BitVec.extractLsb'_toNat, Nat.shiftRight_eq_div_pow]

/-- The argument of `CRC.BYTE` holds its byte. -/
theorem byteField_setWidth (b : Byte) : (b.setWidth 32).extractLsb' 0 8 = b := by
  apply BitVec.eq_of_toNat_eq
  simp only [extractLsb'_toNat_div, BitVec.toNat_setWidth]
  omega

/-- The argument of `ENC.CHUNK` holds its tag. -/
theorem tagField_append (seq : Byte) (tag : Word16) : ((seq ++ tag).setWidth 32).extractLsb' 0 16 = tag := by
  apply BitVec.eq_of_toNat_eq
  simp only [extractLsb'_toNat_div, BitVec.toNat_setWidth, append_toNat]
  omega

/-- The argument of `ENC.CHUNK` holds its sequence byte. -/
theorem seqField_append (seq : Byte) (tag : Word16) : ((seq ++ tag).setWidth 32).extractLsb' 16 8 = seq := by
  apply BitVec.eq_of_toNat_eq
  simp only [extractLsb'_toNat_div, BitVec.toNat_setWidth, append_toNat]
  omega

/-- With bits 31:8 zero, the argument of `CRC.BYTE` is its byte. -/
theorem setWidth_byteField (arg : BitVec 32) (h : arg.extractLsb' 8 24 = 0) :
    (arg.extractLsb' 0 8).setWidth 32 = arg := by
  have hz : arg.toNat / 2 ^ 8 % 2 ^ 24 = 0 := by rw [← extractLsb'_toNat_div arg 8 24, h]; rfl
  apply BitVec.eq_of_toNat_eq
  simp only [extractLsb'_toNat_div, BitVec.toNat_setWidth]
  omega

/-- With bits 31:24 zero, the argument of `ENC.CHUNK` is its sequence byte and its tag. -/
theorem append_seqField_tagField (arg : BitVec 32) (h : arg.extractLsb' 24 8 = 0) :
    (arg.extractLsb' 16 8 ++ arg.extractLsb' 0 16).setWidth 32 = arg := by
  have hz : arg.toNat / 2 ^ 24 % 2 ^ 8 = 0 := by rw [← extractLsb'_toNat_div arg 24 8, h]; rfl
  apply BitVec.eq_of_toNat_eq
  simp only [extractLsb'_toNat_div, BitVec.toNat_setWidth, append_toNat]
  omega

/-! ## Command words -/

/-- Every bit of `arg` is in an operand of the operation or must be zero (R63). -/
theorem encode_assemble (o : Op) (arg : BitVec 32) (h : operandClean o arg = true) :
    encode (assemble o arg) = .word (makeWord o arg) := by
  cases o with
  | encStart => rfl
  | crcByte =>
    have hz : arg.extractLsb' 8 24 = 0 := by simpa [operandClean] using h
    rw [assemble, encode, setWidth_byteField arg hz]
  | encChunk =>
    have hz : arg.extractLsb' 24 8 = 0 := by simpa [operandClean] using h
    rw [assemble, encode, append_seqField_tagField arg hz]
  | _ =>
    obtain rfl : arg = 0 := by simpa [operandClean] using h
    rfl

/-- A word that decodes has the code of an operation and clean must-be-zero bits. -/
theorem decodeWord_ok (cw : CmdWord) (i : Instr) (h : decodeWord cw = .ok i) :
    ∃ o, opCode o = opField cw ∧ operandClean o (argField cw) = true ∧ i = assemble o (argField cw) := by
  unfold decodeWord at h
  split at h
  · cases h
  · rename_i o ho
    split at h
    · rename_i hclean
      cases h
      exact ⟨o, opCode_of_opOf _ o ho, hclean, rfl⟩
    · cases h

/-- Settles O34: the word is the code and the argument that its operation is put together from. -/
theorem encodeInvertsWordDecode : Obligations.EncodeInvertsWordDecode := by
  intro cw i h
  obtain ⟨o, hcode, hclean, rfl⟩ := decodeWord_ok cw i h
  rw [encode_assemble o _ hclean, makeWord_fields o cw hcode]

/-- A command word determines its code and its argument. -/
theorem makeWord_inj {o o' : Op} {arg arg' : BitVec 32} (h : makeWord o arg = makeWord o' arg') :
    o = o' ∧ arg = arg' := by
  have hcode : opCode o = opCode o' := by simpa using congrArg opField h
  have harg : arg = arg' := by simpa using congrArg argField h
  have hop : some o = some o' := by simpa using congrArg opOf hcode
  exact ⟨Option.some.inj hop, harg⟩

/-- An instruction that is spelled as a word and put together from that word's argument is decoded from it. -/
theorem decode_encode_of_word (i : Instr) (o : Op) (arg : BitVec 32) (hwf : wellFormed i = true)
    (hshape : Laws.Shape.Statement i) (he : encode i = .word (makeWord o arg)) (ha : assemble o arg = i) :
    decode (encode i) = .ok i := by
  have hclean : operandClean o arg = true := by
    have h := hshape hwf
    rw [he] at h
    obtain ⟨-, o', arg', hw, hc⟩ := h
    obtain ⟨rfl, rfl⟩ := makeWord_inj hw
    exact hc
  rw [he, decode, decodeWord_makeWord, if_pos hclean, ha]
  rfl

/-! ## The fields of the frames -/

/-- An 8-bit field written at its offset is read back. -/
theorem field8_between (x z : Msg) (b : Byte) (o : Nat) (h : x.length = o) : field8 (x ++ [b] ++ z) o = b := by
  rw [field8, memRead, slice_between x [b] z o (o + 1) h (by simp)]
  simp [leNat]

/-- One byte is the field it holds. -/
theorem singleton_field8 (m : Msg) (o : Nat) (h : o + 1 ≤ m.length) : [field8 m o] = slice m o (o + 1) := by
  have hl : (slice m o (o + 1)).length = 1 := by simp; omega
  obtain ⟨b, hb⟩ := List.length_eq_one_iff.mp hl
  simp [field8, memRead, hb, leNat]

/-- The fields of a Start Command's byte image (R68). -/
theorem fields_startCmdBytes (size : BitVec 32) (t : Word16) :
    field16 (startCmdBytes size t) 0 = 1 ∧ field32 (startCmdBytes size t) 2 = size ∧
    slice (startCmdBytes size t) 6 18 = zeros 12 ∧ field16 (startCmdBytes size t) 18 = t ∧
    slice (startCmdBytes size t) 0 18 = [0x01, 0x00] ++ le32 size ++ zeros 12 := by
  have hb : startCmdBytes size t = le16 1 ++ le32 size ++ zeros 12 ++ le16 t := rfl
  rw [hb]
  refine ⟨?_, ?_, ?_, ?_, ?_⟩
  · simpa using field16_between [] (le32 size ++ zeros 12 ++ le16 t) 1 0 rfl
  · simpa using field32_between (le16 1) (zeros 12 ++ le16 t) size 2 rfl
  · exact slice_between (le16 1 ++ le32 size) (zeros 12) (le16 t) 6 18 rfl (by simp)
  · simpa using field16_between (le16 1 ++ le32 size ++ zeros 12) [] t 18 rfl
  · exact slice_between [] (le16 1 ++ le32 size ++ zeros 12) (le16 t) 0 18 rfl rfl

/-- The reserved bytes of a 20-byte message pass the length check of an acknowledgement (R65). -/
theorem reserved_length (m : Msg) (h : m.length = 20) : ((slice m 6 18).length == Params.frameRsvdLen) = true := by
  rw [slice_length, h]
  rfl

/-- A 20-byte message with a Start Command's fixed bytes is the byte image of its size and its trailer. -/
theorem startCmdBytes_fields (m : Msg) (hl : m.length = 20) (hcmd : field16 m 0 = 1) (hz : slice m 6 18 = zeros 12) :
    startCmdBytes (field32 m 2) (field16 m 18) = m := by
  have hb : startCmdBytes (field32 m 2) (field16 m 18) =
      le16 1 ++ le32 (field32 m 2) ++ zeros 12 ++ le16 (field16 m 18) := rfl
  rw [hb, ← hcmd, ← hz, le16_field16 m 0 (by omega), le32_field32 m 2 (by omega), le16_field16 m 18 (by omega),
    slice_append_slice m 0 2 6 (by omega) (by omega), slice_append_slice m 0 6 18 (by omega) (by omega),
    slice_append_slice m 0 18 20 (by omega) (by omega), ← hl, slice_self]

/-- The fields of a chunk's byte image (R71). -/
theorem fields_chunkBytes (tag : Word16) (seq : Byte) (p : Msg) :
    field16 (chunkBytes tag seq p) 0 = tag ∧ field8 (chunkBytes tag seq p) 2 = seq ∧
    (chunkBytes tag seq p).drop 3 = p := by
  refine ⟨?_, field8_between (le16 tag) p seq 2 rfl, rfl⟩
  simpa [chunkBytes] using field16_between [] ([seq] ++ p) tag 0 rfl

/-- A message of 3 bytes or more is the byte image of the chunk it holds. -/
theorem chunkBytes_fields (m : Msg) (h : 3 ≤ m.length) :
    chunkBytes (field16 m 0) (field8 m 2) (m.drop 3) = m := by
  rw [chunkBytes, le16_field16 m 0 (by omega), singleton_field8 m 2 (by omega),
    slice_append_slice m 0 2 3 (by omega) (by omega)]
  exact List.take_append_drop 3 m

/-- The fields of a sector's byte image (R74). -/
theorem fields_sectorBytes (p : Msg) (t : Word16) :
    (sectorBytes p t).take p.length = p ∧ field16 (sectorBytes p t) p.length = t := by
  refine ⟨List.take_left, ?_⟩
  simpa [sectorBytes] using field16_between p [] t p.length rfl

/-- A message of 2 bytes or more is the byte image of the sector it holds. -/
theorem sectorBytes_fields (m : Msg) (h : 2 ≤ m.length) :
    sectorBytes (m.take (m.length - 2)) (field16 m (m.length - 2)) = m := by
  rw [sectorBytes, le16_field16 m _ (by omega), take_append_slice m _ _ (by omega),
    Nat.sub_add_cancel h, List.take_length]

/-! ## Wire structures -/

theorem decodeWire_startCmdBytes (size : BitVec 32) (t : Word16) :
    decodeWire .startCmd (startCmdBytes size t) = .ok (.frameStartCmd size t) := by
  obtain ⟨hcmd, hsize, hz, ht, -⟩ := fields_startCmdBytes size t
  simp [decodeWire_startCmd, hcmd, hsize, hz, ht]

theorem decodeWire_ackBytes (a b c t : Word16) (res : Msg) (h : res.length = 12) :
    decodeWire .cmdAck (ackBytes a b c res t) = .ok (.frameCmdAck a b c res t) ∧
    decodeWire .sectorAck (ackBytes a b c res t) = .ok (.frameSectorAck a b c res t) := by
  obtain ⟨ha, hb, hc, ht, -, hres⟩ := fields_ackBytes a b c t res h
  have hl : (ackBytes a b c res t).length = 20 := by rw [ackBytes_length, h]
  simp [decodeWire_cmdAck, decodeWire_sectorAck, hl, ha, hb, hc, ht, hres]

theorem decodeWire_chunkBytes (tag : Word16) (seq : Byte) (p : Msg) (h : 1 ≤ p.length ∧ p.length ≤ 509) :
    decodeWire .chunk (chunkBytes tag seq p) = .ok (.frameChunk tag seq p) := by
  obtain ⟨htag, hseq, hp⟩ := fields_chunkBytes tag seq p
  rw [decodeWire_chunk, if_neg (by simp; omega), htag, hseq, hp]

theorem decodeWire_sectorBytes (p : Msg) (t : Word16) (h : 1 ≤ p.length ∧ p.length ≤ 4096) :
    decodeWire .sector (sectorBytes p t) = .ok (.frameSector p t) := by
  obtain ⟨hp, ht⟩ := fields_sectorBytes p t
  have hl : (sectorBytes p t).length - 2 = p.length := by simp
  rw [decodeWire_sector, if_neg (by simp; omega), hl, hp, ht]

/-- Settles O33: an operation is put together again from its word, a wire structure from the fields of its bytes. -/
theorem decodeInvertsEncode : Obligations.DecodeInvertsEncode := by
  intro i hwf
  cases i with
  | crcInit => exact decode_encode_of_word _ .crcInit 0 hwf Laws.Shape.crcInit rfl rfl
  | crcByte b =>
    exact decode_encode_of_word _ .crcByte (b.setWidth 32) hwf (Laws.Shape.crcByte b) rfl
      (by rw [assemble, byteField_setWidth])
  | crcSum => exact decode_encode_of_word _ .crcSum 0 hwf Laws.Shape.crcSum rfl rfl
  | crcAppend => exact decode_encode_of_word _ .crcAppend 0 hwf Laws.Shape.crcAppend rfl rfl
  | crcCheck => exact decode_encode_of_word _ .crcCheck 0 hwf Laws.Shape.crcCheck rfl rfl
  | encStart size => exact decode_encode_of_word _ .encStart size hwf (Laws.Shape.encStart size) rfl rfl
  | encChunk tag seq =>
    exact decode_encode_of_word _ .encChunk ((seq ++ tag).setWidth 32) hwf (Laws.Shape.encChunk tag seq) rfl
      (by rw [assemble, tagField_append, seqField_append])
  | decCack => exact decode_encode_of_word _ .decCack 0 hwf Laws.Shape.decCack rfl rfl
  | decFack => exact decode_encode_of_word _ .decFack 0 hwf Laws.Shape.decFack rfl rfl
  | frameStartCmd size t => rw [encode, decode, decodeWire_startCmdBytes]; rfl
  | frameCmdAck a b c res t => rw [encode, decode, (decodeWire_ackBytes a b c t res (eq_of_beq hwf)).1]; rfl
  | frameSectorAck a b c res t => rw [encode, decode, (decodeWire_ackBytes a b c t res (eq_of_beq hwf)).2]; rfl
  | frameChunk tag seq p => rw [encode, decode, decodeWire_chunkBytes tag seq p (of_decide_eq_true hwf)]; rfl
  | frameSector p t => rw [encode, decode, decodeWire_sectorBytes p t (of_decide_eq_true hwf)]; rfl

/-- Settles O35: the tests of each kind leave no byte of the frame free of its fields. -/
theorem encodeInvertsWireDecode : Obligations.EncodeInvertsWireDecode := by
  intro kind m i h
  cases kind with
  | startCmd =>
    rw [decodeWire_startCmd] at h
    split_ifs at h with hl hcmd hz
    cases h
    exact ⟨rfl, congrArg _ (startCmdBytes_fields m (not_not.mp hl) (not_not.mp hcmd) (not_not.mp hz))⟩
  | cmdAck =>
    rw [decodeWire_cmdAck] at h
    split_ifs at h with hl
    cases h
    exact ⟨reserved_length m (not_not.mp hl), congrArg _ (ackBytes_fields m (not_not.mp hl))⟩
  | sectorAck =>
    rw [decodeWire_sectorAck] at h
    split_ifs at h with hl
    cases h
    exact ⟨reserved_length m (not_not.mp hl), congrArg _ (ackBytes_fields m (not_not.mp hl))⟩
  | chunk =>
    rw [decodeWire_chunk] at h
    split_ifs at h with hl
    cases h
    have hp : 1 ≤ (m.drop 3).length ∧ (m.drop 3).length ≤ 509 := by rw [List.length_drop]; omega
    exact ⟨decide_eq_true hp, congrArg _ (chunkBytes_fields m (by omega))⟩
  | sector =>
    rw [decodeWire_sector] at h
    split_ifs at h with hl
    cases h
    have hp : 1 ≤ (m.take (m.length - 2)).length ∧ (m.take (m.length - 2)).length ≤ 4096 := by
      rw [List.length_take]; omega
    exact ⟨decide_eq_true hp, congrArg _ (sectorBytes_fields m (by omega))⟩

/-- Settles O36, by evaluating both decoders on the written words and frames. -/
theorem writtenWordsDecode : Obligations.WrittenWordsDecode := by
  refine ⟨rfl, rfl, rfl, rfl, rfl, rfl, rfl, rfl, rfl, rfl, rfl, rfl, ?_, ?_, ?_, ?_, ?_⟩
  · exact decodeWire_startCmdBytes 5000 0x446A
  · exact (decodeWire_ackBytes 0x0003 0x0001 0x0000 0xA856 (zeros 12) rfl).1
  · exact (decodeWire_ackBytes 0x0001 0x5678 0x1234 0x8085 (zeros 12) rfl).2
  · exact decodeWire_chunkBytes 0x0102 0x7F [0xAA] (by decide)
  · exact decodeWire_sectorBytes [0x01, 0x02, 0x03, 0x04, 0x05, 0x06] 0xD90C (by decide)

/-! ## The tests of an issue -/

/-- The test on the message length that each operation makes (R61). -/
def lengthTest : Op → Nat → Bool
  | .crcInit => acceptsNone
  | .crcByte => acceptsNone
  | .crcSum => acceptsAny
  | .crcAppend => acceptsAny
  | .crcCheck => acceptsTrailer
  | .encStart => acceptsNone
  | .encChunk => acceptsPayload
  | .decCack => acceptsAny
  | .decFack => acceptsAny

theorem lengthTest_iff (o : Op) (n : Nat) : lengthTest o n = true ↔ lengthAccepted o n := by
  cases o <;> simp [lengthTest, lengthAccepted, acceptsAny]

/-- Every operation makes its length test first, and answers with `done` when it passes. -/
theorem exec_assemble (o : Op) (arg : BitVec 32) (s : State) :
    ∃ run out a e, exec (assemble o arg) s = .next (withLength (lengthTest o) run s) ∧
      run s = emit out { s with acc := a, stEq := e } := by
  cases o with
  | decCack =>
    by_cases hm : (inputMessage s).length ≠ 20
    · exact ⟨_, _, _, _, rfl, if_pos hm⟩
    · exact ⟨_, _, _, _, rfl, if_neg hm⟩
  | decFack =>
    by_cases hm : (inputMessage s).length ≠ 20
    · exact ⟨_, _, _, _, rfl, if_pos hm⟩
    · exact ⟨_, _, _, _, rfl, if_neg hm⟩
  | _ => exact ⟨_, _, _, _, rfl, rfl⟩

/-- A code that is none of the nine spells no operation (R62, R64 a). -/
theorem decodeWord_illegalOp (cw : CmdWord) (h : opField cw ∉ opTable.map opCode) :
    decodeWord cw = .error .illegalOp := by
  have hnone : opOf (opField cw) = none := by simpa [opOf] using h
  rw [decodeWord, hnone]

/-- Settles O8: the decoder makes the first two tests and names the error, the operation makes the third. -/
theorem issueTestsInOrder : Obligations.IssueTestsInOrder := by
  intro s cw mi rest hin
  refine ⟨fun hcode => step_issue_error s cw mi rest _ hin (decodeWord_illegalOp cw hcode), fun o ho =>
    ⟨step_badOperand o s cw mi rest hin ho, fun hclean => ?_⟩⟩
  have hd : decodeWord cw = .ok (assemble o (argField cw)) := by rw [decodeWord_of_opField o cw ho, if_pos hclean]
  have hmi := inputMessage_issue s cw mi rest hin
  obtain ⟨run, out, a, e, hexec, hrun⟩ := exec_assemble o (argField cw) s
  rw [step_issue_ok s cw mi rest _ hin hd, hexec, ← lengthTest_iff, ← hmi]
  refine ⟨fun hlen => ?_, fun hlen => ⟨out, a, e, ?_⟩⟩
  · rw [withLength_refused _ _ _ (eq_false_of_ne_true hlen)]
  · rw [withLength_accepted _ _ _ hlen, hrun]

/-! ## The frames that this side sends -/

/-- A Start Command whose trailer is its checksum is what `ENC.START` hands over (R111). -/
theorem startCmdBytes_sealed (size : BitVec 32) (t : Word16) (h : crc16 (slice (startCmdBytes size t) 0 18) = t) :
    startCmdBytes size t = startFrame size := by
  obtain ⟨-, -, -, -, hbody⟩ := fields_startCmdBytes size t
  rw [hbody] at h
  rw [startFrame_eq, h]
  rfl

/-- Settles O37, from the fields of the bytes that are written. -/
theorem startCommandIsWritten : Obligations.StartCommandIsWritten := by
  intro s size t
  obtain ⟨hcmd, hsize, hz, ht, -⟩ := fields_startCmdBytes size t
  exact ⟨startCmdBytes size t, rfl, rfl, startCmdBytes_length size t, hcmd, hsize, hz, ht, startCmdBytes_sealed size t⟩

/-- `ENC.CHUNK` of a payload of an accepted length hands over the chunk's bytes (R112). -/
theorem encChunkOp_accepted (tag : Word16) (seq : Byte) (s : State)
    (h : 1 ≤ (inputMessage s).length ∧ (inputMessage s).length ≤ 509) :
    encChunkOp tag seq s = emit (.bytes (chunkBytes tag seq (inputMessage s))) s :=
  withLength_accepted _ _ s ((acceptsPayload_iff _).mpr h)

/-- Settles O38, from the fields of the bytes that are written. -/
theorem chunkFrameIsWritten : Obligations.ChunkFrameIsWritten := by
  intro s tag seq p
  obtain ⟨htag, hseq, hp⟩ := fields_chunkBytes tag seq p
  refine ⟨chunkBytes tag seq p, rfl, ?_, htag, hseq, hp, fun hmin hmax u hu => ?_⟩
  · rw [chunkBytes_length, Nat.add_comm]
  · subst hu
    exact ⟨_, congrArg Host.Outcome.next (encChunkOp_accepted tag seq u ⟨hmin, hmax⟩), lastBytes_emit_bytes _ u⟩

end Sys2Proof.Machine
end

section
/-! PROOFS. The statements about the checksum engine (spec/40_crc.md): the algebra of the round, what
follows of streaming, leading zeros, single-bit errors and linearity, and the five operations. -/

namespace Sys2Proof

/-! ## One round and one byte -/

/-- Bit 15 is the test of a number against `0x8000` (R90). -/
theorem getLsbD_15_eq_decide (a : Word16) : a.getLsbD 15 = decide (32768 ≤ a.toNat) :=
  a.msb_eq_getLsbD_last.symm.trans (BitVec.msb_eq_decide a)

/-- A round as a number (R90). -/
theorem crcRound_toNat (a : Word16) : (crcRound a).toNat =
    if 32768 ≤ a.toNat then (2 * a.toNat % 65536) ^^^ 0x1021 else 2 * a.toNat := by
  have hshift : (a <<< 1).toNat = 2 * a.toNat % 65536 := by rw [BitVec.toNat_shiftLeft, Nat.shiftLeft_eq, Nat.mul_comm]
  by_cases ht : 32768 ≤ a.toNat
  · rw [crcRound, getLsbD_15_eq_decide, if_pos (decide_eq_true ht), if_pos ht, BitVec.toNat_xor, hshift]
    rfl
  · rw [crcRound, getLsbD_15_eq_decide, if_neg (by simpa using ht), if_neg ht, hshift]
    omega

/-- What a round XORs in for the bit that the shift pushes out (R90). -/
def roundFeedback (t : Bool) : Word16 := if t then Params.crcPoly else 0

theorem crcRound_eq_shift_xor (a : Word16) : crcRound a = (a <<< 1) ^^^ roundFeedback (a.getLsbD 15) := by
  rw [crcRound]
  split_ifs with h
  · rw [h]; rfl
  · rw [eq_false_of_ne_true h]; exact BitVec.xor_zero.symm

theorem roundFeedback_xor : ∀ t u : Bool, roundFeedback (t ^^ u) = roundFeedback t ^^^ roundFeedback u := by decide

/-- A round is linear over XOR (R97). -/
theorem crcRound_xor (a c : Word16) : crcRound (a ^^^ c) = crcRound a ^^^ crcRound c := by
  simp only [crcRound_eq_shift_xor, BitVec.shiftLeft_xor_distrib, BitVec.getLsbD_xor, roundFeedback_xor]
  ac_rfl

/-- Only 0 goes to 0: without the feedback the doubled value is 0, with it the result is odd. -/
theorem eq_zero_of_crcRound_eq_zero (a : Word16) (h : crcRound a = 0) : a = 0 := by
  have hn := crcRound_toNat a
  rw [h] at hn
  apply BitVec.eq_of_toNat_eq
  split_ifs at hn with ht
  · have hpoly : 2 * a.toNat % 65536 = 0x1021 := Nat.xor_eq_zero_iff.mp hn.symm
    omega
  · simpa using hn.symm

/-- A function linear over XOR that sends only 0 to 0 tells any two values apart. -/
theorem injective_of_xor {f : Word16 → Word16} (hxor : ∀ a c, f (a ^^^ c) = f a ^^^ f c)
    (hzero : ∀ a, f a = 0 → a = 0) : Function.Injective f := by
  intro a c h
  have hd : f (a ^^^ c) = 0 := by rw [hxor, h, BitVec.xor_self]; rfl
  exact BitVec.xor_eq_zero_iff.mp (hzero _ hd)

theorem crcRound_injective : Function.Injective crcRound :=
  injective_of_xor crcRound_xor eq_zero_of_crcRound_eq_zero

theorem crcRoundsN_xor (n : Nat) (a c : Word16) : crcRoundsN n (a ^^^ c) = crcRoundsN n a ^^^ crcRoundsN n c := by
  induction n generalizing a c with
  | zero => rfl
  | succ n ih => rw [crcRoundsN, crcRound_xor, ih]; rfl

theorem crcRoundsN_injective (n : Nat) : Function.Injective (crcRoundsN n) := by
  induction n with
  | zero => exact fun _ _ h => h
  | succ n ih => exact fun _ _ h => crcRound_injective (ih h)

/-- Absorbing a byte is linear over XOR in the accumulator and the byte together (R97). -/
theorem crcByte_xor (a c : Word16) (b d : Byte) : crcByte (a ^^^ c) (b ^^^ d) = crcByte a b ^^^ crcByte c d := by
  simp only [crcByte, ← crcRoundsN_xor, BitVec.setWidth_xor, BitVec.shiftLeft_xor_distrib]
  congr 1
  ac_rfl

/-- Absorbing one byte tells two accumulators apart. -/
theorem crcByte_injective_left (b : Byte) : Function.Injective (crcByte · b) :=
  fun _ _ h => (BitVec.xor_left_inj _).mp (crcRoundsN_injective _ h)

/-- A byte in bits 15:8 keeps all its bits. -/
theorem highByte_injective : Function.Injective fun b : Byte => b.setWidth 16 <<< 8 := by
  intro b d h
  have hn := congrArg BitVec.toNat h
  simp only [BitVec.toNat_shiftLeft, BitVec.toNat_setWidth, Nat.shiftLeft_eq] at hn
  apply BitVec.eq_of_toNat_eq
  omega

/-- From one accumulator, two bytes are told apart. -/
theorem crcByte_injective_right (a : Word16) : Function.Injective (crcByte a) :=
  fun _ _ h => highByte_injective ((BitVec.xor_right_inj _).mp (crcRoundsN_injective _ h))

@[simp] theorem crcByte_zero_zero : crcByte 0 0 = 0 := by decide

/-! ## Messages -/

/-- Absorbing the same bytes tells two accumulators apart. -/
theorem crcFrom_injective (m : Msg) : Function.Injective (crcFrom · m) := by
  induction m with
  | nil => exact fun _ _ h => h
  | cons b m ih => exact fun _ _ h => crcByte_injective_left b (ih h)

@[simp] theorem crc16_nil : crc16 [] = 0 := rfl

theorem crc16_append (x y : Msg) : crc16 (x ++ y) = crcFrom (crc16 x) y := by
  rw [crc16_eq_crcFrom, crc16_eq_crcFrom, crcFrom_append]

@[simp] theorem crc16_zeros (n : Nat) : crc16 (zeros n) = 0 := by
  induction n with
  | zero => rfl
  | succ n ih =>
    rw [crc16_eq_crcFrom] at ih ⊢
    rw [zeros, List.replicate_succ, crcFrom_cons, crcByte_zero_zero]
    exact ih

/-- The checksum of a message with one byte put in: the bytes before it, it, the bytes behind it. -/
theorem crc16_set (m : Msg) (i : Nat) (b : Byte) (h : i < m.length) :
    crc16 (m.set i b) = crcFrom (crcByte (crc16 (m.take i)) b) (m.drop (i + 1)) := by
  rw [List.set_eq_take_append_cons_drop, if_pos h, crc16_append, crcFrom_cons]

/-- Another byte at one offset is another checksum. -/
theorem crc16_set_injective (m : Msg) (i : Nat) (h : i < m.length) : Function.Injective fun b => crc16 (m.set i b) := by
  intro b d hbd
  simp only [crc16_set m i _ h] at hbd
  exact crcByte_injective_right _ (crcFrom_injective _ hbd)

/-- A flipped bit makes another byte. -/
theorem xor_bit_ne_self (b : Byte) (k : Nat) (h : k < 8) : b ^^^ ((1 : Byte) <<< k) ≠ b := by
  intro hb
  have hbit := congrArg (·.getLsbD k) hb
  simp [h] at hbit

@[simp] theorem xorMsg_cons (a b : Byte) (x y : Msg) : xorMsg (a :: x) (b :: y) = (a ^^^ b) :: xorMsg x y := rfl

/-- Absorbing is linear over XOR in the accumulator and the message together (R97). -/
theorem crcFrom_xor (x y : Msg) (a c : Word16) (h : x.length = y.length) :
    crcFrom (a ^^^ c) (xorMsg x y) = crcFrom a x ^^^ crcFrom c y := by
  induction x generalizing y a c with
  | nil =>
    obtain rfl : y = [] := List.eq_nil_of_length_eq_zero h.symm
    rfl
  | cons b x ih =>
    cases y with
    | nil => simp at h
    | cons d y => simp only [xorMsg_cons, crcFrom_cons, crcByte_xor, ih y _ _ (by simpa using h)]

theorem crc16_xor (x y : Msg) (h : x.length = y.length) : crc16 (xorMsg x y) = crc16 x ^^^ crc16 y := by
  simpa [crc16_eq_crcFrom] using crcFrom_xor x y 0 0 h

/-! ## Fields of a message under an error pattern -/

theorem slice_xorMsg (x y : Msg) (i j : Nat) : slice (xorMsg x y) i j = xorMsg (slice x i j) (slice y i j) := by
  simp only [slice, xorMsg, List.drop_zipWith, List.take_zipWith]

theorem le16_xor (v w : Word16) : le16 (v ^^^ w) = xorMsg (le16 v) (le16 w) := by
  simp [le16, xorMsg, BitVec.extractLsb'_xor]

theorem le16_injective : Function.Injective le16 := by
  intro v w h
  apply BitVec.eq_of_toNat_eq
  rw [← leNat_le16 v, h, leNat_le16]

/-- An error pattern on a frame is one on each of its fields. -/
theorem field16_xorMsg (x y : Msg) (o : Nat) (hx : o + 2 ≤ x.length) (hy : o + 2 ≤ y.length) :
    field16 (xorMsg x y) o = field16 x o ^^^ field16 y o := by
  have hl : o + 2 ≤ (xorMsg x y).length := by rw [xorMsg, List.length_zipWith]; omega
  apply le16_injective
  rw [le16_xor, le16_field16 _ o hl, le16_field16 x o hx, le16_field16 y o hy, slice_xorMsg]

end Sys2Proof

namespace Sys2Proof.Machine

/-! ## The laws of the checksum -/

/-- Settles O14, from the round as a number and the five values. -/
theorem crcRoundArithmetic : Obligations.CrcRoundArithmetic :=
  ⟨crcRound_toNat, by decide⟩

/-- Settles O16: 0 is a fixed point of absorbing a zero byte. -/
theorem leadingZerosInvisible : Obligations.LeadingZerosInvisible := by
  refine ⟨crc16_nil, crc16_zeros, fun n m => ?_, ?_⟩
  · rw [crc16_append, crc16_zeros, ← crc16_eq_crcFrom]
  · rw [crc16_eq_crcFrom, crcFrom_cons, crcFrom_cons, crcFrom_nil, crcByte_zero_zero]
    decide

/-- Settles O17: the flipped byte is another byte, and another byte is another checksum. -/
theorem singleBitFlipDetected : Obligations.SingleBitFlipDetected := by
  intro m i k hi hk h
  have hself : crc16 m = crc16 (m.set i m[i]) := by rw [List.set_getElem_self]
  rw [flipBit, List.getD_eq_getElem m 0 hi, hself] at h
  exact xor_bit_ne_self m[i] k hk (crc16_set_injective m i hi h)

/-- Settles O18: body and trailer of the damaged frame are the frame's XOR the pattern's, and the frame's agree. -/
theorem checksumIsLinear : Obligations.ChecksumIsLinear := by
  refine ⟨crc16_xor, fun f e hf he hmatch => ?_⟩
  have hbody : (slice f 0 18).length = (slice e 0 18).length := by rw [slice_length, slice_length, hf, he]
  rw [slice_xorMsg, crc16_xor _ _ hbody, field16_xorMsg f e 18 hf.ge he.ge, hmatch]
  exact BitVec.xor_right_inj _

/-! ## An operation issued under its own command word -/

theorem decodeWord_of_decode (cw : CmdWord) (i : Instr) (h : decode (.word cw) = .ok i) : decodeWord cw = .ok i := by
  rw [decode] at h
  cases hd : decodeWord cw with
  | error e => rw [hd] at h; cases h
  | ok j => rw [hd] at h; cases h; rfl

theorem decodeWord_commandWord (i : Instr) (h : isOperation i = true) : decodeWord (commandWord i) = .ok i := by
  have hround := decodeInvertsEncode i
  cases i with
  | frameStartCmd _ _ => cases h
  | frameCmdAck _ _ _ _ _ => cases h
  | frameSectorAck _ _ _ _ _ => cases h
  | frameChunk _ _ _ => cases h
  | frameSector _ _ => cases h
  | _ => exact decodeWord_of_decode _ _ (hround rfl)

/-- The step that takes an operation's command word runs the operation on the message beside it (R49). -/
theorem step_commandWord (i : Instr) (m : Msg) (s : State) (rest : List Input) (hop : isOperation i = true)
    (h : s.inputs = .issue (commandWord i) m :: rest) : step s = exec i s :=
  step_issue_ok s _ m rest i h (decodeWord_commandWord i hop)

/-! ## The five operations -/

theorem exec_crcInit (s : State) (h : inputMessage s = []) :
    exec .crcInit s = .next (emit .none { s with acc := 0x0000 }) :=
  congrArg Host.Outcome.next (withLength_accepted acceptsNone _ s (by simp [h]))

theorem exec_crcByte (b : Byte) (s : State) (h : inputMessage s = []) :
    exec (.crcByte b) s = .next (emit .none { s with acc := crcByte s.acc b }) :=
  congrArg Host.Outcome.next (withLength_accepted acceptsNone _ s (by simp [h]))

theorem exec_crcSum (s : State) : exec .crcSum s = .next (emit .none { s with acc := crc16 (inputMessage s) }) := rfl

theorem exec_crcAppend (s : State) : exec .crcAppend s = .next (emit (.bytes (withTrailer (inputMessage s))) s) := rfl

/-- A message is refused by an operation that takes none (R61). -/
theorem withLength_acceptsNone_refused (run : State → State) (s : State) (h : inputMessage s ≠ []) :
    withLength acceptsNone run s = refuse .badLength s :=
  withLength_refused acceptsNone run s (by simpa [acceptsNone] using h)

/-- An operation without an operand is refused with code 2 for any bit of `arg` (R63, R64 b). -/
theorem step_argNonzero (o : Op) (ho : ∀ arg, operandClean o arg = (arg == 0)) (s : State) (cw : CmdWord) (mi : Msg)
    (rest : List Input) (hin : s.inputs = .issue cw mi :: rest) (hop : opField cw = opCode o)
    (harg : argField cw ≠ 0) : step s = .next (refuse .badOperand s) :=
  step_badOperand o s cw mi rest hin hop (by rw [ho]; exact beq_false_of_ne harg)

/-- The comparison that `CRC.CHECK` makes on a body and a little-endian trailer (R102). -/
theorem exec_crcCheck (s : State) (body : Msg) (t : Word16) (h : inputMessage s = body ++ le16 t) :
    exec .crcCheck s = .next (emit .none (writeEq (decide (crc16 body = t)) s)) := by
  have hlen : (body ++ le16 t).length - 2 = body.length := by simp
  have hbody : slice (body ++ le16 t) 0 body.length = body := by simp [slice]
  have htrailer : field16 (body ++ le16 t) body.length = t := by simpa using field16_between body [] t _ rfl
  rw [exec, execCrcCheck, crcCheckOp, withLength_accepted _ _ s (by simp [h])]
  simp only [h, Params.trailerLen, hlen, hbody, htrailer]
  rfl

/-- The number that two bytes hold, the low one first (R42). -/
theorem field16_pair_toNat (lo hi : Byte) : (field16 [lo, hi] 0).toNat = lo.toNat + 256 * hi.toNat := by
  have := lo.isLt
  have := hi.isLt
  have hbytes : (field16 [lo, hi] 0).toNat = (lo.toNat + 256 * (hi.toNat + 256 * 0)) % 65536 := BitVec.toNat_ofNat ..
  omega

/-- Settles O19, from the length test and `CRC_INIT`. -/
theorem crcInitClearsAcc : Obligations.CrcInitClearsAcc :=
  ⟨rfl, exec_crcInit, fun s h => congrArg Host.Outcome.next (withLength_acceptsNone_refused _ s h),
    step_argNonzero .crcInit fun _ => rfl⟩

/-- Settles O20, from the length test and the eight rounds of a byte. -/
theorem crcByteAbsorbs : Obligations.CrcByteAbsorbs := by
  refine ⟨fun b => ?_, fun s b h => exec_crcByte b s h,
    fun s b h => congrArg Host.Outcome.next (withLength_acceptsNone_refused _ s h),
    fun s cw mi rest hin hop harg => step_badOperand .crcByte s cw mi rest hin hop (by simpa [operandClean] using harg),
    fun a b => rfl, by decide⟩
  have hb := b.isLt
  have hword : commandWord (.crcByte b) = makeWord .crcByte (b.setWidth 32) := rfl
  rw [hword, makeWord_toNat, BitVec.toNat_setWidth, Nat.mod_eq_of_lt (by omega)]
  rfl

/-- Settles O21: the old `ACC` is not read, and the checksum of zeros is 0. -/
theorem crcSumLeavesChecksum : Obligations.CrcSumLeavesChecksum := by
  refine ⟨rfl, exec_crcSum, fun s n h => ?_,
    step_argNonzero .crcSum fun _ => rfl⟩
  rw [exec_crcSum, h, crc16_zeros]
  rfl

/-- Settles O22, from the bytes that are handed over. -/
theorem crcAppendPutsTrailer : Obligations.CrcAppendPutsTrailer := by
  refine ⟨rfl, fun s => ⟨withTrailer (inputMessage s), exec_crcAppend s, rfl, by simp [withTrailer], fun h => ?_⟩,
    step_argNonzero .crcAppend fun _ => rfl⟩
  rw [h]
  rfl

/-- Settles O23: the two bytes are the image of one 16-bit value, and it is compared with the body's checksum. -/
theorem crcCheckComparesTrailer : Obligations.CrcCheckComparesTrailer := by
  refine ⟨rfl, fun s body lo hi h => ?_, fun s h => ?_, fun s m h => ?_,
    step_argNonzero .crcCheck fun _ => rfl⟩
  · have himage : le16 (field16 [lo, hi] 0) = [lo, hi] := le16_field16 [lo, hi] 0 le_rfl
    rw [exec_crcCheck s body (field16 [lo, hi] 0) (by rw [himage, h]), ← field16_pair_toNat,
      decide_eq_decide.mpr BitVec.toNat_inj]
    rfl
  · exact congrArg Host.Outcome.next (withLength_refused _ _ s (decide_eq_false (Nat.not_le.mpr h)))
  · rw [exec_crcCheck s m _ h, decide_eq_true rfl]
    rfl

/-! ## Both expansions of the checksum (R136) -/

/-- One `CRC.BYTE` per byte of a message absorbs it into `ACC` (R94). -/
theorem runSteps_crcByte_each (m : Msg) (s : State) (rest : List Input)
    (h : s.inputs = m.map (fun b => .issue (commandWord (.crcByte b)) []) ++ rest) :
    ∃ t, runSteps m.length s = .next t ∧ t.acc = crcFrom s.acc m ∧ t.inputs = rest := by
  induction m generalizing s with
  | nil => exact ⟨s, rfl, rfl, h⟩
  | cons b m ih =>
    have hstep : step s = .next (emit .none { s with acc := crcByte s.acc b }) := by
      rw [step_commandWord (.crcByte b) [] s _ rfl h, exec_crcByte b s (inputMessage_issue s _ [] _ h)]
    obtain ⟨t, hrun, hacc, hin⟩ := ih (emit .none { s with acc := crcByte s.acc b }) (by simp [h])
    exact ⟨t, by rw [List.length_cons, runSteps_succ _ s _ hstep, hrun], hacc, hin⟩

/-- Settles O15: `CRC.INIT` clears `ACC` and the bytes are absorbed one by one, or `CRC.SUM` absorbs them at once. -/
theorem checksumStreams : Obligations.ChecksumStreams := by
  refine ⟨crc16_append, fun m s rest h => ?_, fun m s rest h => ?_⟩
  · have hstep : step s = .next (emit .none { s with acc := 0x0000 }) := by
      rw [step_commandWord .crcInit [] s _ rfl h, exec_crcInit s (inputMessage_issue s _ [] _ h)]
    obtain ⟨t, hrun, hacc, hin⟩ :=
      runSteps_crcByte_each m (emit .none { s with acc := 0x0000 }) rest (by simp [h, streamInputs])
    exact ⟨t, by rw [runSteps_succ _ s _ hstep, hrun], by rw [hacc, crc16_eq_crcFrom]; rfl, hin⟩
  · have hstep : step s = .next (emit .none { s with acc := crc16 m }) := by
      rw [step_commandWord .crcSum m s _ rfl h, exec_crcSum, inputMessage_issue s _ m _ h]
    exact ⟨_, runSteps_succ 0 s _ hstep, rfl, by simp [h]⟩

end Sys2Proof.Machine
end

section
/-! PROOFS. The statements about the encode operations (spec/41_encode.md): the bytes that `ENC.START` and `ENC.CHUNK`
hand over, what they refuse, and what the two decoders read from a Start Command. -/

namespace Sys2Proof

/-- A field of a field is a field of the whole. -/
theorem extractLsb'_extractLsb'_add (x : BitVec w) (o n i k : Nat) (h : i + k ≤ n) :
    (x.extractLsb' o n).extractLsb' i k = x.extractLsb' (o + i) k := by
  ext j hj
  have hn : i + j < n := by omega
  simp [hn, Nat.add_assoc]

/-- A size's low and high half, one after the other, are its four bytes (R42). -/
theorem le16_halves (size : BitVec 32) :
    le16 (size.extractLsb' 0 16) ++ le16 (size.extractLsb' 16 16) = le32 size := by
  simp [le16, le32, extractLsb'_extractLsb'_add]

end Sys2Proof

namespace Sys2Proof.Machine

/-! ## The two operations -/

/-- `ENC.START` without a message hands over the Start Command (R111). -/
theorem exec_encStart (size : BitVec 32) (s : State) (h : inputMessage s = []) :
    exec (.encStart size) s = .next (emit (.bytes (startFrame size)) s) :=
  congrArg Host.Outcome.next (withLength_accepted acceptsNone _ s (by simp [h]))

/-- Settles O24: the word is the code and the size, and the frame is its first 18 bytes and their checksum. -/
theorem encStartBuildsStartCommand : Obligations.EncStartBuildsStartCommand := by
  refine ⟨fun size => ?_, fun s size f h hf => ?_,
    fun s size h => congrArg Host.Outcome.next (withLength_acceptsNone_refused _ s h)⟩
  · have hword : commandWord (.encStart size) = makeWord .encStart size := rfl
    rw [hword, makeWord_toNat]
    rfl
  · subst hf
    rw [exec_encStart size s h, startFrame_eq]
    rfl

/-- The number that the argument of `ENC.CHUNK` is: the tag, and the sequence byte above it (R63). -/
theorem chunkArg_toNat (seq : Byte) (tag : Word16) :
    ((seq ++ tag).setWidth 32).toNat = 65536 * seq.toNat + tag.toNat := by
  rw [BitVec.toNat_setWidth, append_toNat]
  omega

/-- Settles O25: the word is the code, the sequence byte and the tag; inside the length bounds the frame is the chunk's
bytes. -/
theorem encChunkBuildsChunkFrame : Obligations.EncChunkBuildsChunkFrame := by
  refine ⟨fun tag seq => ?_, fun s tag seq hmin hmax => ?_, fun s tag seq h => ?_,
    fun s cw mi rest hin hop harg => ?_⟩
  · have hword : commandWord (.encChunk tag seq) = makeWord .encChunk ((seq ++ tag).setWidth 32) := rfl
    rw [hword, makeWord_toNat, chunkArg_toNat, ← Nat.add_assoc]
    rfl
  · exact ⟨chunkBytes tag seq (inputMessage s),
      congrArg Host.Outcome.next (encChunkOp_accepted tag seq s ⟨hmin, hmax⟩), rfl, rfl⟩
  · have hlen : acceptsPayload (inputMessage s).length = false :=
      eq_false_of_ne_true fun hok => absurd ((acceptsPayload_iff _).mp hok) (by omega)
    exact congrArg Host.Outcome.next (withLength_refused acceptsPayload _ s hlen)
  · exact step_badOperand .encChunk s cw mi rest hin hop (beq_false_of_ne harg)

/-! ## Decoding what was encoded -/

/-- The Start Command as the decoders read it: field A is the command code, B and C are the halves of the size. -/
theorem startFrame_eq_ackBytes (size : BitVec 32) :
    startFrame size = ackBytes 0x0001 (size.extractLsb' 0 16) (size.extractLsb' 16 16) (zeros 12)
      (crc16 (le16 0x0001 ++ le16 (size.extractLsb' 0 16) ++ le16 (size.extractLsb' 16 16) ++ zeros 12)) := by
  rw [startFrame_eq, ackBytes, List.append_assoc (le16 1), le16_halves]
  rfl

section
variable (s : State) (a b c r : Word16) (res : Msg)

/-- `DEC.CACK` of an acknowledgement's bytes delivers the three fields, with field C overridden when the trailer is not
the checksum, and `EQ` tells which (R124). -/
theorem exec_decCack_ackBytes (hres : res.length = 12) (h : inputMessage s = ackBytes a b c res r) :
    exec .decCack s = .next (emit
      (.cack a b (overridden (decide (crc16 (le16 a ++ le16 b ++ le16 c ++ res) = r)) c))
      (writeEq (decide (crc16 (le16 a ++ le16 b ++ le16 c ++ res) = r)) s)) := by
  have hlen : (ackBytes a b c res r).length = Params.frameLen := by rw [ackBytes_length, hres]; rfl
  rw [exec, execDecCack, decCackOp, withLength_any, ← frameMatches_ackBytes a b c r res hres]
  simp only [h, hlen, ne_eq, not_true_eq_false, if_false, cackRecord_ackBytes a b c r res hres]
  rfl

/-- `DEC.FACK` likewise, with field B overridden (R125). -/
theorem exec_decFack_ackBytes (hres : res.length = 12) (h : inputMessage s = ackBytes a b c res r) :
    exec .decFack s = .next (emit
      (.fack a (overridden (decide (crc16 (le16 a ++ le16 b ++ le16 c ++ res) = r)) b) c)
      (writeEq (decide (crc16 (le16 a ++ le16 b ++ le16 c ++ res) = r)) s)) := by
  have hlen : (ackBytes a b c res r).length = Params.frameLen := by rw [ackBytes_length, hres]; rfl
  rw [exec, execDecFack, decFackOp, withLength_any, ← frameMatches_ackBytes a b c r res hres]
  simp only [h, hlen, ne_eq, not_true_eq_false, if_false, fackRecord_ackBytes a b c r res hres]
  rfl

end

/-- A chunk's bytes determine its tag, its sequence byte and its payload (R113 c). -/
theorem chunkBytes_inj {tag tag' : Word16} {seq seq' : Byte} {p p' : Msg}
    (h : chunkBytes tag seq p = chunkBytes tag' seq' p') : tag = tag' ∧ seq = seq' ∧ p = p' := by
  obtain ⟨htag, hseq, hp⟩ := fields_chunkBytes tag seq p
  obtain ⟨htag', hseq', hp'⟩ := fields_chunkBytes tag' seq' p'
  rw [h] at htag hseq hp
  exact ⟨htag.symm.trans htag', hseq.symm.trans hseq', hp.symm.trans hp'⟩

/-- Settles O26: a Start Command is an acknowledgement's bytes under their own checksum, and a chunk's fields are read
back from its bytes. -/
theorem encodersLoopBack : Obligations.EncodersLoopBack := by
  refine ⟨fun s size h => ?_, fun _ _ _ _ _ _ => chunkBytes_inj⟩
  rw [startFrame_eq_ackBytes] at h
  rw [exec_decCack_ackBytes s _ _ _ _ _ (zeros_length 12) h, exec_decFack_ackBytes s _ _ _ _ _ (zeros_length 12) h,
    decide_eq_true rfl]
  exact ⟨rfl, rfl⟩

end Sys2Proof.Machine
end

section
/-! PROOFS. The statements about the decode operations (spec/42_decode.md): what `DEC.CACK` and `DEC.FACK` drop and what
they deliver, the one field in which they differ, and a notification that is not 20 bytes. -/

namespace Sys2Proof.Machine

/-! ## Messages of a wrong length (R121, R122) -/

/-- `DEC.CACK` drops a message that is not 20 bytes: it completes without an output. -/
theorem exec_decCack_dropped (s : State) (h : (inputMessage s).length ≠ 20) : exec .decCack s = .next (emit .none s) :=
  congrArg Host.Outcome.next (if_pos h)

/-- `DEC.FACK` likewise. -/
theorem exec_decFack_dropped (s : State) (h : (inputMessage s).length ≠ 20) : exec .decFack s = .next (emit .none s) :=
  congrArg Host.Outcome.next (if_pos h)

/-! ## The two decoders -/

/-- Settles O27: the length decides whether the message is dropped, and the trailer which response is delivered. -/
theorem decCackDecodes : Obligations.DecCackDecodes := by
  refine ⟨rfl, exec_decCack_dropped, fun s a b c r res hres h => ⟨fun hmatch => ?_, fun hmatch => ?_⟩,
    step_argNonzero .decCack fun _ => rfl⟩
  · rw [exec_decCack_ackBytes s a b c r res hres h, decide_eq_true hmatch]
    rfl
  · rw [exec_decCack_ackBytes s a b c r res hres h, decide_eq_false hmatch]
    rfl

/-- Settles O28: the length decides whether the message is dropped, and the trailer which status is delivered. -/
theorem decFackDecodes : Obligations.DecFackDecodes := by
  refine ⟨rfl, exec_decFack_dropped, fun s a b c r res hres h => ⟨fun hmatch => ?_, fun hmatch => ?_⟩,
    step_argNonzero .decFack fun _ => rfl⟩
  · rw [exec_decFack_ackBytes s a b c r res hres h, decide_eq_true hmatch]
    rfl
  · rw [exec_decFack_ackBytes s a b c r res hres h, decide_eq_false hmatch]
    rfl

/-! ## The field that a mismatch overrides (R127) -/

/-- The two fields that the decoders override are both as read, or both `CRC_FAIL`. -/
theorem overridden_pair (ok : Bool) (c b : Word16) :
    (ok = true ∧ overridden ok c = c ∧ overridden ok b = b) ∨
    (ok = false ∧ overridden ok c = 0xFFFF ∧ overridden ok b = 0xFFFF) := by
  cases ok with
  | true => exact .inl ⟨rfl, rfl, rfl⟩
  | false => exact .inr ⟨rfl, rfl, rfl⟩

/-- A delivered value other than `CRC_FAIL` proves that the trailer matched (R127 d). -/
theorem eq_true_of_overridden_ne {ok : Bool} {field : Word16} (h : overridden ok field ≠ 0xFFFF) : ok = true := by
  cases ok with
  | true => rfl
  | false => exact absurd rfl h

/-- Twenty zero bytes are an acknowledgement of zeros whose trailer matches (R127 b). -/
theorem zeros_eq_ackBytes : zeros 20 = ackBytes 0 0 0 (zeros 12) (crc16 (le16 0 ++ le16 0 ++ le16 0 ++ zeros 12)) := by
  have hbody : le16 0 ++ le16 0 ++ le16 0 ++ zeros 12 = zeros 18 := rfl
  rw [hbody, crc16_zeros]
  rfl

/-- Settles O29: both decoders read the fields of the one acknowledgement that the 20 bytes are. -/
theorem decodersDifferInOneField : Obligations.DecodersDifferInOneField := by
  refine ⟨fun s hlen => ?_, fun s h => ?_⟩
  · have hm := (ackBytes_fields (inputMessage s) hlen).symm
    have hres : (slice (inputMessage s) 6 18).length = 12 := eq_of_beq (reserved_length _ hlen)
    exact ⟨_, _, _, _, _, _, exec_decCack_ackBytes s _ _ _ _ _ hres hm, exec_decFack_ackBytes s _ _ _ _ _ hres hm,
      overridden_pair _ _ _, fun hne => hne.elim eq_true_of_overridden_ne eq_true_of_overridden_ne⟩
  · rw [zeros_eq_ackBytes] at h
    rw [exec_decCack_ackBytes s _ _ _ _ _ (zeros_length 12) h, exec_decFack_ackBytes s _ _ _ _ _ (zeros_length 12) h,
      decide_eq_true rfl]
    exact ⟨rfl, rfl⟩

/-! ## Notifications of a wrong length (R147) -/

section
variable (s : State) (m : Msg) (rest : List Input)

theorem takeInput_of_cons (e : Input) (h : s.inputs = e :: rest) : takeInput s = { s with inputs := rest } := by
  rw [takeInput, h, List.tail_cons]

theorem emit_of_cons (e : Input) (out : Output) (h : s.inputs = e :: rest) :
    emit out s = { s with inputs := rest, completions := s.completions ++ [.done out] } := by
  rw [emit, takeInput_of_cons s rest e h]

/-- A payload of a wrong length on the command-ack channel is no frame, but the dispatcher takes it (R122). -/
theorem step_cmdAck_wrongLength (hm : m.length ≠ 20) (h : s.inputs = .wire .cmdAck m :: rest) :
    step s = .next (dispatchCack m s) :=
  step_wire_error s .cmdAck m rest .wrongLength h (if_pos hm)

/-- On the firmware-ack channel likewise. -/
theorem step_sectorAck_wrongLength (hm : m.length ≠ 20) (h : s.inputs = .wire .sectorAck m :: rest) :
    step s = .next (dispatchFack m s) :=
  step_wire_error s .sectorAck m rest .wrongLength h (if_pos hm)

end

/-- Settles O43: the dispatcher drops the payload in the one completion, or loses it without a subscription. -/
theorem wrongLengthPayloadIsDropped : Obligations.WrongLengthPayloadIsDropped := by
  refine fun s m rest hm => ⟨fun hsub h => ?_, fun hsub h => ?_, fun hsub h => ?_, fun hsub h => ?_⟩
  · rw [step_cmdAck_wrongLength s m rest hm h, dispatchCack_dropped m s hsub hm, emit_of_cons s rest _ _ h]
  · rw [step_sectorAck_wrongLength s m rest hm h, dispatchFack_dropped m s hsub hm, emit_of_cons s rest _ _ h]
  · rw [step_cmdAck_wrongLength s m rest hm h, dispatchCack_unsubscribed m s hsub, takeInput_of_cons s rest _ h]
  · rw [step_sectorAck_wrongLength s m rest hm h, dispatchFack_unsubscribed m s hsub, takeInput_of_cons s rest _ h]

end Sys2Proof.Machine
end

section
/-! PROOFS. The statements about the host's sequences (spec/43_host_sequences.md): cutting an image into sectors and a
sector into chunks, the notifications and the sector that the host takes, the turns that send chunks, the moves of the
transfer state machine, and what ends a session. -/

namespace Sys2Proof.Machine

/-! ## The payload that a unit size gives (R139) -/

/-- A unit size gives a payload exactly from 7 on. -/
theorem one_le_maxChunkPayload_iff (u : Nat) : 1 ≤ maxChunkPayload u ↔ 7 ≤ u := by
  simp only [maxChunkPayload, Params.chunkCap, Params.transportOverhead, Params.chunkHdrLen]
  omega

/-- From unit size 515 on the cap on a chunk is what bounds its payload. -/
theorem maxChunkPayload_eq_cap (u : Nat) (h : 515 ≤ u) : maxChunkPayload u = 509 := by
  simp only [maxChunkPayload, Params.chunkCap, Params.transportOverhead, Params.chunkHdrLen]
  omega

theorem openSession_unitTooSmall (image : Msg) (u : Nat) (s : State) (hlive : sessionLive s = false)
    (himage : image ≠ []) (hu : u < 7) : openSession image u s = .fault .unitTooSmall := by
  have hpayload := (one_le_maxChunkPayload_iff u).not.mpr (by omega)
  rw [openSession, if_neg (by simp [hlive]), if_neg himage, if_pos (by omega)]

/-- Settles O46: the formula decides the bounds, and below unit size 7 opening a session is a fault. -/
theorem maxChunkPayloadBounds : Obligations.MaxChunkPayloadBounds := by
  refine ⟨fun u => ⟨rfl, one_le_maxChunkPayload_iff u, maxChunkPayload_le u, maxChunkPayload_eq_cap u⟩, rfl, rfl, rfl,
    fun s image u rest h hlive himage hu t ht => ?_⟩
  rw [step_openSession s image u rest h, openSession_unitTooSmall image u s hlive himage hu] at ht
  cases ht

/-- Settles O48: 256 chunks of 16 bytes carry 4096 of a full sector's 4098 bytes. -/
theorem fullSectorNeedsSeventeen : Obligations.FullSectorNeedsSeventeen := by
  refine ⟨fun m hm => ?_, fun u => ?_⟩
  · rw [chunkCount, ceilDiv_le_iff 4098 m 256 hm]
    omega
  · simp only [maxChunkPayload, Params.chunkCap, Params.transportOverhead, Params.chunkHdrLen]
    omega

/-! ## Cutting an image into sectors (R137, R138) -/

theorem sectorCount_eq (image : Msg) : sectorCount image = (image.length + 4095) / 4096 := by
  rw [sectorCount, ceilDiv, Params.sectorPayload, Nat.add_sub_assoc (by omega)]

/-- A window holds 4096 bytes, or what is left of the image. -/
theorem window_length (image : Msg) (j : Nat) (h : j < sectorCount image) :
    (window image j).length = min 4096 (image.length - 4096 * j) :=
  piece_length 4096 image j ((lt_ceilDiv_iff image.length 4096 j (by omega)).mp h)

@[simp] theorem sectorPayloadOf_withTrailer (w : Msg) : sectorPayloadOf (withTrailer w) = w := by
  simp [sectorPayloadOf, withTrailer]

/-- Stripped of their trailers, the sectors of an image are its windows. -/
theorem segmentImage_payloads (image : Msg) :
    (segmentImage image).map sectorPayloadOf = (List.range (sectorCount image)).map (piece 4096 image) := by
  rw [segmentImage, List.map_map]
  exact List.map_congr_left fun j _ => sectorPayloadOf_withTrailer (window image j)

/-- Settles O44: the sectors are the image's windows, each under its trailer. -/
theorem segmentReconstructsImage : Obligations.SegmentReconstructsImage := by
  refine fun image _ => ⟨(segmentImage_length image).trans (sectorCount_eq image), ?_, fun sector hmem => ?_,
    fun j sector hget hj => ?_⟩
  · rw [segmentImage_payloads]
    exact all_pieces 4096 image (by omega)
  · obtain ⟨j, hget⟩ := List.mem_iff_getElem?.mp hmem
    obtain ⟨hj, rfl⟩ := segmentImage_get image j sector hget
    rw [sectorPayloadOf_withTrailer, window_length image j hj]
    rw [sectorCount_eq] at hj
    exact ⟨rfl, by omega, by omega⟩
  · obtain ⟨hlt, rfl⟩ := segmentImage_get image j sector hget
    rw [sectorPayloadOf_withTrailer, window_length image j hlt]
    rw [segmentImage_length, sectorCount_eq] at hj
    omega

/-- Only the last window can be short, and is when 4096 does not divide the image. -/
theorem window_short_iff (image : Msg) (j : Nat) (h : j < sectorCount image) :
    (window image j).length < 4096 ↔ j + 1 = sectorCount image ∧ image.length % 4096 ≠ 0 := by
  rw [window_length image j h]
  rw [sectorCount_eq] at h ⊢
  omega

/-- The tag of a sector, by the length of its window. -/
theorem sectorTag_withTrailer (j : Nat) (w : Msg) :
    sectorTag j (withTrailer w) = if w.length < 4096 then 0xFFFF else BitVec.ofNat 16 j := by
  have hlen : (withTrailer w).length < 4098 ↔ w.length < 4096 := by
    rw [withTrailer, List.length_append, le16_length]
    omega
  exact if_congr hlen rfl rfl

/-- No index of an image that the protocol can carry is the sentinel. -/
theorem ofNat_toNat_of_index (j : Nat) (h : j < 65535) : (BitVec.ofNat 16 j).toNat = j := by
  rw [BitVec.toNat_ofNat]
  omega

theorem ofNat_ne_sentinel (j : Nat) (h : j < 65535) : BitVec.ofNat 16 j ≠ 0xFFFF := by
  intro he
  have htoNat : (0xFFFF : Word16).toNat = j := he ▸ ofNat_toNat_of_index j h
  have hval : (0xFFFF : Word16).toNat = 65535 := rfl
  omega

/-- Settles O45: the tag is the sentinel for a short window, and only the last window can be short. -/
theorem onlyShortLastSectorTaggedSentinel : Obligations.OnlyShortLastSectorTaggedSentinel := by
  intro image _ hcount j sector hget
  obtain ⟨hj, rfl⟩ := segmentImage_get image j sector hget
  rw [sectorTag_withTrailer, ← window_short_iff image j hj]
  by_cases hshort : (window image j).length < 4096
  · simp [hshort]
  · have hne := ofNat_ne_sentinel j (by omega)
    rw [if_neg hshort]
    exact ⟨iff_of_false hne hshort, fun _ => ofNat_toNat_of_index j (by omega)⟩

/-! ## Cutting a sector into chunks (R140) -/

@[simp] theorem chunkFrames_length (sector : Msg) (m : Nat) (tag : Word16) :
    (chunkFrames sector m tag).length = chunkCount sector.length m := by
  simp [chunkFrames]

theorem chunkFrames_get (sector : Msg) (m : Nat) (tag : Word16) (q : Nat) (f : Msg)
    (h : (chunkFrames sector m tag)[q]? = some f) : q < chunkCount sector.length m ∧
      f = chunkBytes tag (chunkSeq q (chunkCount sector.length m)) (chunkPayload sector m q) := by
  obtain ⟨hq, rfl⟩ := List.getElem?_eq_some_iff.mp h
  exact ⟨by simpa using hq, by simp [chunkFrames]⟩

@[simp] theorem chunkBytes_drop (tag : Word16) (seq : Byte) (p : Msg) : (chunkBytes tag seq p).drop 3 = p := rfl

/-- Stripped of their headers, the frames of a sector are its pieces. -/
theorem chunkFrames_payloads (sector : Msg) (m : Nat) (tag : Word16) :
    (chunkFrames sector m tag).map (fun f => f.drop 3) =
      (List.range (ceilDiv sector.length m)).map (piece m sector) := by
  rw [chunkFrames, List.map_map]
  rfl

/-- A chunk carries 1 to m bytes, and m unless it is the last. -/
theorem chunkPayload_length (sector : Msg) (m q : Nat) (hm : 1 ≤ m) (hq : q < chunkCount sector.length m) :
    1 ≤ (chunkPayload sector m q).length ∧ (chunkPayload sector m q).length ≤ m ∧
    (q + 1 < chunkCount sector.length m → (chunkPayload sector m q).length = m) := by
  have hlt := (lt_ceilDiv_iff sector.length m q hm).mp hq
  rw [chunkPayload, piece_length m sector q hlt]
  refine ⟨by omega, by omega, fun hnext => ?_⟩
  have hfull := (lt_ceilDiv_iff sector.length m (q + 1) hm).mp hnext
  rw [Nat.mul_succ] at hfull
  omega

/-- Settles O47: the frames are the sector's pieces, each under its header. -/
theorem chunkReconstructsSector : Obligations.ChunkReconstructsSector := by
  refine fun sector m tag _ hm _ => ⟨chunkFrames_length sector m tag, ?_, fun q f hget => ?_⟩
  · rw [chunkFrames_payloads]
    exact all_pieces m sector hm
  · obtain ⟨hq, rfl⟩ := chunkFrames_get sector m tag q f hget
    obtain ⟨hpos, hle, hfull⟩ := chunkPayload_length sector m q hm hq
    rw [chunkBytes_drop, chunkFrames_length]
    exact ⟨rfl, hpos, hle, hfull, rfl⟩

/-! ## Notifications and sectors that the host takes (R138, R145, R146) -/

section
variable (s : State) (a b c r : Word16) (res : Msg)

/-- An acknowledgement on the command-ack channel: answered as `DEC.CACK` answers it, and its record delivered. -/
theorem exec_frameCmdAck_subscribed (hres : res.length = 12) (hsub : s.subCmd = true) :
    exec (.frameCmdAck a b c res r) s = .next (deliverCack (cackRecord (ackBytes a b c res r))
      (emit (.cack (cackRecord (ackBytes a b c res r)).ackCode (cackRecord (ackBytes a b c res r)).echoedCmd
        (cackRecord (ackBytes a b c res r)).response) (writeEq (frameMatches (ackBytes a b c res r)) s))) := by
  rw [exec, execFrameCmdAck, dispatchCack_decoded _ s hsub (by rw [ackBytes_length, hres])]

/-- An acknowledgement on the firmware-ack channel likewise, as `DEC.FACK`. -/
theorem exec_frameSectorAck_subscribed (hres : res.length = 12) (hsub : s.subFw = true) :
    exec (.frameSectorAck a b c res r) s = .next (deliverFack (fackRecord (ackBytes a b c res r))
      (emit (.fack (fackRecord (ackBytes a b c res r)).sectorSent (fackRecord (ackBytes a b c res r)).status
        (fackRecord (ackBytes a b c res r)).currentSector) (writeEq (frameMatches (ackBytes a b c res r)) s))) := by
  rw [exec, execFrameSectorAck, dispatchFack_decoded _ s hsub (by rw [ackBytes_length, hres])]

end

/-- Where a Command Acknowledgement's record goes, and what that does to the free values. -/
theorem deliverCack_queue (r : CackRecord) (s : State) :
    (awaitsCack s = true → (deliverCack r s).cmdQueue = s.cmdQueue ++ [r] ∧ (deliverCack r s).freeIdx = s.freeIdx) ∧
    (awaitsCack s = false → (deliverCack r s).freeIdx = s.freeIdx + 1 ∧
      ((deliverCack r s).cmdQueue = s.cmdQueue ++ [r] ∨ (deliverCack r s).cmdQueue = s.cmdQueue ∨
        (deliverCack r s).cmdQueue = [r])) := by
  refine ⟨fun h => by simp [h], fun h => ?_⟩
  obtain ⟨q, hd, hq⟩ := deliverCack_unawaited r s h
  rw [hd]
  exact ⟨rfl, hq⟩

/-- Where a Sector Acknowledgement's record goes, likewise. -/
theorem deliverFack_queue (r : FackRecord) (s : State) :
    (awaitsFack s = true → (deliverFack r s).fwQueue = s.fwQueue ++ [r] ∧ (deliverFack r s).freeIdx = s.freeIdx) ∧
    (awaitsFack s = false → (deliverFack r s).freeIdx = s.freeIdx + 1 ∧
      ((deliverFack r s).fwQueue = s.fwQueue ++ [r] ∨ (deliverFack r s).fwQueue = s.fwQueue ∨
        (deliverFack r s).fwQueue = [r])) := by
  refine ⟨fun h => by simp [h], fun h => ?_⟩
  obtain ⟨q, hd, hq⟩ := deliverFack_unawaited r s h
  rw [hd]
  exact ⟨rfl, hq⟩

/-- Settles O39: the record is the one that `DEC.CACK` delivers, and `deliverCack` says where it goes. -/
theorem commandAckIsDecodedAndQueued : Obligations.CommandAckIsDecodedAndQueued := by
  intro s a b c r res hres
  refine ⟨fun hsub => ?_, fun hsub => congrArg Host.Outcome.next (dispatchCack_unsubscribed _ s hsub)⟩
  have hexec := exec_frameCmdAck_subscribed s a b c r res hres hsub
  rw [cackRecord_ackBytes a b c r res hres] at hexec
  obtain ⟨hawaited, hunawaited⟩ := deliverCack_queue _ _
  exact ⟨_, _, hexec, by simp [frameMatches_ackBytes a b c r res hres], rfl, hawaited, hunawaited⟩

/-- Settles O40: the record is the one that `DEC.FACK` delivers, and `deliverFack` says where it goes. -/
theorem sectorAckIsDecodedAndQueued : Obligations.SectorAckIsDecodedAndQueued := by
  intro s a b c r res hres
  refine ⟨fun hsub => ?_, fun hsub => congrArg Host.Outcome.next (dispatchFack_unsubscribed _ s hsub)⟩
  have hexec := exec_frameSectorAck_subscribed s a b c r res hres hsub
  rw [fackRecord_ackBytes a b c r res hres] at hexec
  obtain ⟨hawaited, hunawaited⟩ := deliverFack_queue _ _
  exact ⟨_, _, hexec, by simp [frameMatches_ackBytes a b c r res hres], rfl, hawaited, hunawaited⟩

theorem sendSector_unitTooSmall (j : Nat) (sector : Msg) (s : State) (h : s.unitSize < 7) :
    sendSector j sector s = .fault .unitTooSmall := by
  have hpayload := (one_le_maxChunkPayload_iff s.unitSize).not.mpr (by omega)
  rw [sendSector, if_pos (by omega)]

/-- Settles O41, from the three ways handing a sector to the Chunker can end. -/
theorem sectorIsHandedToChunker : Obligations.SectorIsHandedToChunker := by
  rintro s payload trailer sector rfl
  refine ⟨fun hu hcount => ?_, fun hu => sendSector_unitTooSmall _ _ (takeInput s) hu, fun hu hcount =>
    sendSector_tooMany _ _ (takeInput s) ((one_le_maxChunkPayload_iff _).mpr hu) hcount⟩
  refine ⟨_, sendSector_ok _ _ (takeInput s) ((one_le_maxChunkPayload_iff _).mpr hu) hcount, rfl, ?_⟩
  rw [List.map_append, chunkJobs_frames]
  rfl

/-! ## Turns that send chunks (R140, R142, R155) -/

theorem uploaded_of_uploading {S : Session} (h : S.phase = .uploadingSector) :
    uploaded S = { S with phase := .awaitingSectorAck } :=
  if_pos h

theorem uploaded_of_ne {S : Session} (h : S.phase ≠ .uploadingSector) : uploaded S = S :=
  if_neg h

/-- The state once the chunks `js` are sent and the chunks `later` are left. -/
def afterChunks (js later : List ChunkJob) (rest : List Input) (s : State) : State :=
  { s with
    inputs := rest
    jobs := later
    session := if later = [] then s.session.map uploaded else s.session
    writes := s.writes ++ js.map (fun j => WireWrite.mk .firmware (jobFrame j) false)
    completions := s.completions ++ js.map (fun j => .done (.bytes (jobFrame j))) }

/-- One turn sends the chunk at the head. -/
theorem step_turn_chunk (s : State) (job : ChunkJob) (later : List ChunkJob) (rest : List Input)
    (h : s.inputs = .turn :: rest) (hj : s.jobs = job :: later)
    (hp : 1 ≤ job.payload.length ∧ job.payload.length ≤ 509) :
    step s = .next (afterChunks [job] later rest s) := by
  rw [step_turn s rest h, hostTurn, hj]
  simp only [sendChunk_ok job later s hp, h]
  rfl

/-- Chunks sent after another, none of them the last, are all sent. -/
theorem afterChunks_afterChunks (job : ChunkJob) (js later : List ChunkJob) (mid rest : List Input) (s : State)
    (hjs : js ≠ []) :
    afterChunks js later rest (afterChunks [job] (js ++ later) mid s) = afterChunks (job :: js) later rest s := by
  simp [afterChunks, hjs]

/-- One turn per chunk sends the chunks in order. -/
theorem runSteps_turns_sendChunks (js later : List ChunkJob) (rest : List Input) (hjs : js ≠ [])
    (hp : ∀ j ∈ js, 1 ≤ j.payload.length ∧ j.payload.length ≤ 509) (s : State) (hj : s.jobs = js ++ later)
    (h : s.inputs = List.replicate js.length .turn ++ rest) :
    runSteps js.length s = .next (afterChunks js later rest s) := by
  induction js generalizing s with
  | nil => exact absurd rfl hjs
  | cons job js ih =>
    have hin : s.inputs = .turn :: (List.replicate js.length .turn ++ rest) := h
    have hfirst := step_turn_chunk s job (js ++ later) _ hin hj (hp job List.mem_cons_self)
    rw [List.length_cons, runSteps_succ _ _ _ hfirst]
    by_cases hlast : js = []
    · subst hlast
      rfl
    · rw [ih hlast (fun j hmem => hp j (List.mem_cons_of_mem job hmem)) _ rfl rfl,
        afterChunks_afterChunks job js later _ rest s hlast]

/-- Settles O49: the chunks queued for the sector are the frames of `chunk`, and each turn sends one. -/
theorem turnsSendTheSector : Obligations.TurnsSendTheSector := by
  intro s sector m tag later rest hsector hm hmax _ hj hin
  have hpayload : ∀ j ∈ chunkJobs sector m tag, 1 ≤ j.payload.length ∧ j.payload.length ≤ 509 := fun j hmem =>
    have ⟨hpos, hle⟩ := chunkJobs_payload sector m tag hm j hmem
    ⟨hpos, hle.trans hmax⟩
  have hrun := runSteps_turns_sendChunks (chunkJobs sector m tag) later rest (chunkJobs_ne_nil sector m tag hsector hm)
    hpayload s hj (by rw [chunkJobs_length, hin])
  rw [chunkJobs_length] at hrun
  refine ⟨_, hrun, ?_, fun S hlater hS hup => ?_, fun S hS hkeep => ?_, fun hS => by simp [afterChunks, hS]⟩
  · simp [afterChunks, ← chunkJobs_frames]
  · simp [afterChunks, hlater, hS, uploaded_of_uploading hup]
  · rcases hkeep with hup | hlater
    · simp [afterChunks, hS, uploaded_of_ne hup]
    · simp [afterChunks, hS, hlater]

/-! ## Opening a session (R137, R139, R148) -/

section
variable (s : State) (image : Msg) (u : Nat) (rest : List Input) (h : s.inputs = .openSession image u :: rest)
include h

theorem step_openSession_ok (hlive : sessionLive s = false) (himage : image ≠ []) (hu : 7 ≤ u)
    (hlen : image.length < 4294967296) (hcount : sectorCount image ≤ 65535) :
    step s = .next { s with
      inputs := rest, unitSize := u, jobs := [], cmdQueue := [], fwQueue := [], subCmd := true, subFw := true,
      linkClosed := false, session := some { image := image, sectors := [], cursor := 0, phase := .init } } := by
  have hunit := (one_le_maxChunkPayload_iff u).mpr hu
  have hfits : ¬ (Params.imageLimit ≤ image.length ∨ Params.sectorsMax < sectorCount image) := by
    simp only [Params.imageLimit, Params.sectorsMax]
    omega
  rw [step_openSession s image u rest h, openSession, if_neg (by simp [hlive]), if_neg himage, if_neg (by omega),
    if_neg hfits, takeInput_of_cons s rest _ h]

theorem step_openSession_empty (hlive : sessionLive s = false) (himage : image = []) :
    step s = .fault .emptyImage := by
  rw [step_openSession s image u rest h, openSession, if_neg (by simp [hlive]), if_pos himage]

theorem step_openSession_tooLarge (hlive : sessionLive s = false) (himage : image ≠ []) (hu : 7 ≤ u)
    (hlarge : 4294967296 ≤ image.length ∨ 65535 < sectorCount image) : step s = .refused .imageTooLarge := by
  have hunit := (one_le_maxChunkPayload_iff u).mpr hu
  rw [step_openSession s image u rest h, openSession, if_neg (by simp [hlive]), if_neg himage, if_neg (by omega),
    if_pos (by exact hlarge)]

theorem step_openSession_live (hlive : sessionLive s = true) : step s = .refused .sessionLive := by
  rw [step_openSession s image u rest h, openSession, if_pos hlive]

end

/-- Settles O50, one lemma for each of the five ways an opening can end. -/
theorem sessionOpensOnGoodImage : Obligations.SessionOpensOnGoodImage := fun s image u rest h =>
  ⟨step_openSession_ok s image u rest h, step_openSession_empty s image u rest h, fun hlive himage hu =>
    (step_openSession s image u rest h).trans (openSession_unitTooSmall image u s hlive himage hu),
    step_openSession_tooLarge s image u rest h, step_openSession_live s image u rest h⟩

/-! ## A turn with nothing to send: the phase decides (R149) -/

section
variable (s : State) (S : Session) (rest : List Input) (h : s.inputs = .turn :: rest) (hj : s.jobs = [])
  (hS : s.session = some S)
include h hj hS

theorem step_turn_init (hp : S.phase = .init) : step s = .next (initMove S s) := by
  simp only [step_turn s rest h, hostTurn, hj, hS, hp]

theorem step_turn_awaitingStartAck (hp : S.phase = .awaitingStartAck) : step s = startAckMove S s := by
  simp only [step_turn s rest h, hostTurn, hj, hS, hp]

theorem step_turn_awaitingSectorAck (hp : S.phase = .awaitingSectorAck) : step s = sectorAckMove S s := by
  simp only [step_turn s rest h, hostTurn, hj, hS, hp]

end

/-- Settles O51, from the two moves of `INIT`. -/
theorem initSegmentsThenSendsStart : Obligations.InitSegmentsThenSendsStart := by
  refine fun s S rest h hj hS hp => ⟨fun hmore => ?_, fun hdone _ => ?_⟩
  · rw [step_turn_init s S rest h hj hS hp, initMove_more S s hmore, h, List.tail_cons]
  · rw [step_turn_init s S rest h hj hS hp, initMove_done S s hdone, sendStart_eq, h, List.tail_cons]

/-- With nothing to send, the chunks of a sector that fits are all that is to be sent. -/
theorem uploadSector_fits (i : Nat) (S : Session) (s : State) (sector : Msg) (hs : S.sectors[i]? = some sector)
    (hu : 7 ≤ s.unitSize) (hcount : chunkCount sector.length (maxChunkPayload s.unitSize).toNat ≤ 256)
    (hj : s.jobs = []) : uploadSector i S s = .next { s with
      session := some { S with cursor := i, phase := .uploadingSector }
      jobs := chunkJobs sector (maxChunkPayload s.unitSize).toNat (sectorTag i sector) } := by
  rw [uploadSector_ok i S s sector hs ((one_le_maxChunkPayload_iff _).mpr hu) hcount, hj, List.nil_append]

/-- A code between two bounds is none outside them. -/
theorem ne_of_toNat_outside {x : Word16} {lo hi : Nat} (v : Word16) (hlo : lo ≤ x.toNat) (hhi : x.toNat ≤ hi)
    (hv : v.toNat < lo ∨ hi < v.toNat) : x ≠ v := by
  rintro rfl
  omega

/-! ## A move on a start response (R151 to R154) -/

section
variable (S : Session) (s : State) (r : CackRecord) (q : List CackRecord) (hq : s.cmdQueue = r :: q)

theorem startAckMove_waits (h : s.cmdQueue = []) : startAckMove S s = .next { s with inputs := s.inputs.tail } := by
  simp only [startAckMove, takeInput, h]

include hq

theorem startAckMove_sentinel (hr : r.response = 0xFFFF) :
    startAckMove S s = .next (sendStart S { s with cmdQueue := q }) := by
  simp [startAckMove, hq, hr, Params.crcFail]

theorem startAckMove_rejected (hr : r.response = 0x0001) :
    startAckMove S s = .next (abortSession .startRejected S { s with inputs := s.inputs.tail, cmdQueue := q }) := by
  simp [startAckMove, takeInput, hq, hr, Params.crcFail, Params.ackRejected]

theorem startAckMove_accepted (hr : r.response = 0x0000) :
    startAckMove S s = uploadSector 0 S { s with inputs := s.inputs.tail, cmdQueue := q } := by
  simp [startAckMove, takeInput, hq, hr, Params.crcFail, Params.ackRejected, Params.ackAccepted]

/-- A response that the document does not name has no step, `START_OTHER_POLICY` having no value (R154). -/
theorem startAckMove_other (hlo : 0x0002 ≤ r.response.toNat) (hhi : r.response.toNat ≤ 0xFFFE) :
    startAckMove S s = .refused .startOtherResponse := by
  have hne := fun v : Word16 => ne_of_toNat_outside v hlo hhi
  simp [startAckMove, hq, hne Params.crcFail (by decide), hne Params.ackRejected (by decide),
    hne Params.ackAccepted (by decide), startOther, Config.startOtherPolicy]

end

/-- Settles O52: the Start Command depends on the image alone, and the session already awaits its acknowledgement. -/
theorem startSentinelResendsStart : Obligations.StartSentinelResendsStart := by
  intro s S rest r q h hj hS hp hq hr _
  have hsame : some { S with phase := .awaitingStartAck } = s.session := by rw [hS, ← hp]
  rw [step_turn_awaitingStartAck s S rest h hj hS hp, startAckMove_sentinel S s r q hq hr, sendStart_eq, hsame, h,
    List.tail_cons]

/-- Settles O53, one lemma for each response that the host tells apart. -/
theorem startResponseDecides : Obligations.StartResponseDecides := by
  intro s S rest h hj hS hp
  rw [step_turn_awaitingStartAck s S rest h hj hS hp]
  refine ⟨fun hq => ?_, fun r q hq => ⟨fun hr => ?_, fun hr sector hs hu hcount => ?_,
    fun hr sector hs hu hcount => ?_, startAckMove_other S s r q hq⟩⟩
  · rw [startAckMove_waits S s hq, h, List.tail_cons]
  · rw [startAckMove_rejected S s r q hq hr, h, List.tail_cons]
    rfl
  · rw [startAckMove_accepted S s r q hq hr, h, List.tail_cons]
    exact uploadSector_fits 0 S _ sector hs hu hcount hj
  · rw [startAckMove_accepted S s r q hq hr]
    exact uploadSector_tooMany 0 S _ sector hs ((one_le_maxChunkPayload_iff _).mpr hu) hcount

/-! ## A move on a sector's status (R156 to R160) -/

section
variable (S : Session) (s : State) (r : FackRecord) (q : List FackRecord) (hq : s.fwQueue = r :: q)

theorem sectorAckMove_waits (h : s.fwQueue = []) : sectorAckMove S s = .next { s with inputs := s.inputs.tail } := by
  simp only [sectorAckMove, takeInput, h]

include hq

theorem sectorAckMove_completes (hr : r.status = 0x0000) (hlast : S.cursor + 1 = sectorCount S.image) :
    sectorAckMove S s = .next (closeTransport { report (progressAt S.cursor (sectorCount S.image))
      { s with inputs := s.inputs.tail, fwQueue := q } with session := some { S with phase := .complete } }) := by
  simp [sectorAckMove, takeInput, hq, hr, hlast, Params.fwSuccess]

theorem sectorAckMove_advances (hr : r.status = 0x0000) (hmore : S.cursor + 1 ≠ sectorCount S.image) :
    sectorAckMove S s = uploadSector (S.cursor + 1) S
      (report (progressAt S.cursor (sectorCount S.image)) { s with inputs := s.inputs.tail, fwQueue := q }) := by
  simp [sectorAckMove, takeInput, hq, hr, hmore, Params.fwSuccess]

/-- A damaged sector, a wrong length or a damaged acknowledgement: the same sector again (R158). -/
theorem sectorAckMove_resends (hr : r.status = 0x0001 ∨ r.status = 0x0003 ∨ r.status = 0xFFFF) :
    sectorAckMove S s = uploadSector S.cursor S { s with inputs := s.inputs.tail, fwQueue := q } := by
  rcases hr with hr | hr | hr <;>
    simp [sectorAckMove, takeInput, hq, hr, Params.fwSuccess, Params.fwCrcErr, Params.fwLenErr, Params.crcFail]

theorem sectorAckMove_redirects (hr : r.status = 0x0002) :
    sectorAckMove S s = uploadSector r.currentSector.toNat S { s with inputs := s.inputs.tail, fwQueue := q } := by
  simp [sectorAckMove, takeInput, hq, hr, Params.fwSuccess, Params.fwCrcErr, Params.fwLenErr, Params.crcFail,
    Params.fwSectorErr]

/-- A status that the document does not name aborts the session (R160). -/
theorem sectorAckMove_aborts (hlo : 0x0004 ≤ r.status.toNat) (hhi : r.status.toNat ≤ 0xFFFE) :
    sectorAckMove S s = .next (abortSession .unknownError S { s with inputs := s.inputs.tail, fwQueue := q }) := by
  have hne := fun v : Word16 => ne_of_toNat_outside v hlo hhi
  simp [sectorAckMove, takeInput, hq, hne Params.fwSuccess (by decide), hne Params.fwCrcErr (by decide),
    hne Params.fwLenErr (by decide), hne Params.crcFail (by decide), hne Params.fwSectorErr (by decide)]

end

/-- Settles O54: the move on a success, at the last sector and before it. -/
theorem sectorSuccessAdvances : Obligations.SectorSuccessAdvances := by
  rintro s S rest r q _ _ h hj hS hp hq hr rfl rfl
  rw [step_turn_awaitingSectorAck s S rest h hj hS hp]
  refine ⟨fun hlast => ?_, fun hmore sector hs hu hcount => ?_, fun hmore sector hs hu hcount => ?_⟩
  · rw [sectorAckMove_completes S s r q hq hr hlast, h, List.tail_cons]
    rfl
  · rw [sectorAckMove_advances S s r q hq hr hmore, h, List.tail_cons]
    exact uploadSector_fits _ S _ sector hs hu hcount hj
  · rw [sectorAckMove_advances S s r q hq hr hmore]
    exact uploadSector_tooMany _ S _ sector hs ((one_le_maxChunkPayload_iff _).mpr hu) hcount

/-- Settles O55, one lemma for each class of status. -/
theorem sectorErrorsResendRedirectAbort : Obligations.SectorErrorsResendRedirectAbort := by
  intro s S rest h hj hS hp
  rw [step_turn_awaitingSectorAck s S rest h hj hS hp]
  refine ⟨fun hq => ?_, fun r q hq => ⟨fun hr sector hs hu hcount => ?_, fun hr sector hs hu hcount => ?_,
    fun hr htarget => ?_, fun hr sector hs hu hcount => ?_, fun hr sector hs hu hcount => ?_, fun hlo hhi => ?_⟩⟩
  · rw [sectorAckMove_waits S s hq, h, List.tail_cons]
  · rw [sectorAckMove_resends S s r q hq hr, h, List.tail_cons]
    exact uploadSector_fits _ S _ sector hs hu hcount hj
  · rw [sectorAckMove_redirects S s r q hq hr, h, List.tail_cons]
    exact uploadSector_fits _ S _ sector hs hu hcount hj
  · rw [sectorAckMove_redirects S s r q hq hr]
    exact uploadSector_missing _ S _ (List.getElem?_eq_none htarget)
  · rw [sectorAckMove_resends S s r q hq hr]
    exact uploadSector_tooMany _ S _ sector hs ((one_le_maxChunkPayload_iff _).mpr hu) hcount
  · rw [sectorAckMove_redirects S s r q hq hr]
    exact uploadSector_tooMany _ S _ sector hs ((one_le_maxChunkPayload_iff _).mpr hu) hcount
  · rw [sectorAckMove_aborts S s r q hq hlo hhi, h, List.tail_cons]
    rfl

/-! ## What ends a session, and what outlives its end (R149, R161) -/

/-- Settles O56, from what losing the link does to a live session and to any other. -/
theorem linkLossAbortsLiveSession : Obligations.LinkLossAbortsLiveSession := by
  refine fun s rest h => ⟨fun S hS hlive => ?_, fun hlive => ?_⟩
  · rw [step_disconnect s rest h, loseLink_live s S hS hlive, takeInput_of_cons s rest _ h]
    rfl
  · rw [step_disconnect s rest h, loseLink_idle s hlive, takeInput_of_cons s rest _ h]
    rfl

/-- A session that is not live has ended. -/
theorem sessionLive_eq_false_iff {s : State} {S : Session} (hS : s.session = some S) :
    sessionLive s = false ↔ S.phase = .complete ∨ S.phase = .aborted := by
  rw [← Bool.not_eq_true, sessionLive_some hS, not_and_or, not_not, not_not]

/-- With its last chunk written, a session that is not live stays as it is. -/
theorem map_uploaded_of_not_live {s : State} (h : sessionLive s = false) : s.session.map uploaded = s.session := by
  cases hS : s.session with
  | none => rfl
  | some S =>
    have hphase : S.phase ≠ .uploadingSector := by
      rcases (sessionLive_eq_false_iff hS).mp h with hp | hp <;> simp [hp]
    rw [Option.map_some, uploaded_of_ne hphase]

theorem sendChunk_session (job : ChunkJob) (rest : List ChunkJob) (s : State) :
    (sendChunk job rest s).session = if rest = [] then s.session.map uploaded else s.session := by
  by_cases hp : 1 ≤ job.payload.length ∧ job.payload.length ≤ 509
  · rw [sendChunk_ok job rest s hp]
  · rw [sendChunk_bad job rest s hp]

/-- A turn keeps a session that is not live. -/
theorem TurnMove.session_of_not_live {s t : State} (h : TurnMove s t) (hlive : sessionLive s = false) :
    t.session = s.session := by
  cases h with
  | chunk job rest _ => rw [sendChunk_session, map_uploaded_of_not_live hlive, ite_self]
  | rest => rfl
  | init S _ hS hp => simp [sessionLive_eq_false_iff hS, hp] at hlive
  | sent S _ hS hp => simp [sessionLive_eq_false_iff hS, hp] at hlive
  | ack S _ _ hS hp => rcases hp with hp | hp <;> simp [sessionLive_eq_false_iff hS, hp] at hlive

/-- An instruction keeps the session. -/
theorem exec_session (i : Instr) (s t : State) (h : exec i s = .next t) : t.session = s.session := by
  cases hop : isOperation i with
  | true =>
    obtain ⟨-, -, -, -, -, hS, -⟩ := operationsTouchOnlyTheirRegisters i s t hop h
    exact hS
  | false =>
    obtain ⟨-, -, -, -, -, hS, -⟩ := wireStructuresKeepRegisters i s t hop h
    exact hS

theorem badFrame_session (kind : WireKind) (m : Msg) (s t : State) (h : badFrame kind m s = .next t) :
    t.session = s.session := by
  cases kind with
  | cmdAck =>
    obtain ⟨e, cs, q, n, hd⟩ := dispatchCack_frame m s
    cases h
    rw [hd]
  | sectorAck =>
    obtain ⟨e, cs, q, n, hd⟩ := dispatchFack_frame m s
    cases h
    rw [hd]
  | startCmd => cases h
  | chunk => cases h
  | sector => cases h

/-- A step that opens no session keeps one that is not live, and makes none where there is none. -/
theorem step_session_of_not_live (s t : State) (hlive : sessionLive s = false)
    (hopen : ∀ image u, s.inputs.head? ≠ some (.openSession image u)) (ht : step s = .next t) :
    t.session = s.session := by
  cases hin : s.inputs with
  | nil =>
    rw [step_idle s hin] at ht
    cases ht
    rfl
  | cons e rest =>
    cases e with
    | issue cw mi =>
      cases hd : decodeWord cw with
      | ok i => exact exec_session i s t (step_issue_ok s cw mi rest i hin hd ▸ ht)
      | error e =>
        rw [step_issue_error s cw mi rest e hin hd] at ht
        cases ht
        rfl
    | wire kind m =>
      cases hd : decodeWire kind m with
      | ok i => exact exec_session i s t (step_wire_ok s kind m rest i hin hd ▸ ht)
      | error e => exact badFrame_session kind m s t (step_wire_error s kind m rest e hin hd ▸ ht)
    | turn => exact (hostTurn_cases s t (step_turn s rest hin ▸ ht)).session_of_not_live hlive
    | openSession image u => exact absurd (by rw [hin]; rfl) (hopen image u)
    | disconnect =>
      rw [step_disconnect s rest hin, loseLink_idle s hlive] at ht
      cases ht
      rfl
    | read r =>
      rw [step_read s r rest hin] at ht
      cases ht
      exact readRegister_session r s
    | reset =>
      rw [step_reset s rest hin] at ht
      cases ht
      rfl

/-- With nothing to send and no live session a turn only takes the event. -/
theorem step_turn_not_live (s : State) (rest : List Input) (h : s.inputs = .turn :: rest) (hj : s.jobs = [])
    (hlive : sessionLive s = false) : step s = .next { s with inputs := rest } := by
  rw [step_turn s rest h, ← takeInput_of_cons s rest _ h]
  cases hS : s.session with
  | none => simp only [hostTurn, hj, hS]
  | some S => rcases (sessionLive_eq_false_iff hS).mp hlive with hp | hp <;> simp only [hostTurn, hj, hS, hp]

/-- Settles O60, from what a turn and what any step leaves of a session that is not live. -/
theorem finalSessionsStay : Obligations.FinalSessionsStay :=
  ⟨step_turn_not_live, fun _ _ => sessionLive_eq_false_iff, fun s hS => by simp [sessionLive, hS],
    step_session_of_not_live, fun s image u rest h hlive himage hu hlen hcount =>
      ⟨_, step_openSession_ok s image u rest h hlive himage hu hlen hcount, rfl⟩⟩

/-! ## The host's own issues are never refused (R140, R172) -/

/-- The completions that were added, if any, are all `done`. -/
def AddsOnlyDone (s t : State) : Prop :=
  ∃ cs, t.completions = s.completions ++ cs ∧ ∀ c ∈ cs, ∃ out, c = .done out

theorem AddsOnlyDone.of_eq {s t : State} (h : t.completions = s.completions) : AddsOnlyDone s t :=
  ⟨[], by simpa using h, by simp⟩

theorem AddsOnlyDone.of_done {s t : State} (out : Output) (h : t.completions = s.completions ++ [.done out]) :
    AddsOnlyDone s t :=
  ⟨[.done out], h, by simp⟩

/-- A step that is no reset and whose completions are all `done` keeps `ERR` and `ECODE`. -/
theorem BlockChange.err_of_addsOnlyDone {s t : State} (h : BlockChange s t) (hr : s.inputs.head? ≠ some .reset)
    (hd : AddsOnlyDone s t) : t.stErr = s.stErr ∧ t.stEcode = s.stEcode := by
  cases h with
  | quiet _ _ err ecode _ => exact ⟨err, ecode⟩
  | refused c _ _ _ _ completions =>
    obtain ⟨cs, hcs, hall⟩ := hd
    obtain rfl : cs = [.refused c] := by simpa [hcs] using completions
    simp at hall
  | done _ _ _ err ecode _ => exact ⟨err, ecode⟩
  | reset rest head => simp [head] at hr

theorem addsOnlyDone_sendStart (S : Session) (s u : State) (h : u.completions = s.completions) :
    AddsOnlyDone s (sendStart S u) :=
  .of_done _ (by rw [sendStart_eq, h])

theorem AckMove.addsOnlyDone {S : Session} {s t : State} (h : AckMove S s t) : AddsOnlyDone s t := by
  cases h with
  | resend q => exact addsOnlyDone_sendStart S s _ rfl
  | _ => exact .of_eq rfl

/-- A turn's issue is not refused when `ENC.CHUNK` accepts every chunk to be sent. -/
theorem TurnMove.addsOnlyDone {s t : State} (h : TurnMove s t) (hjobs : jobsInv s) : AddsOnlyDone s t := by
  cases h with
  | chunk job rest hj => exact .of_done _ (by rw [sendChunk_ok job rest s (hjobs job (by simp [hj]))])
  | rest => exact .of_eq rfl
  | init S =>
    by_cases hmore : S.sectors.length < sectorCount S.image
    · exact .of_done _ (by rw [initMove_more S s hmore])
    · rw [initMove_done S s (by omega)]
      exact addsOnlyDone_sendStart S s s rfl
  | sent => exact .of_eq rfl
  | ack S _ _ _ _ ht => exact ht.addsOnlyDone

theorem addsOnlyDone_dispatchCack (m : Msg) (s : State) : AddsOnlyDone s (dispatchCack m s) := by
  by_cases hsub : s.subCmd = true
  · by_cases hm : m.length = 20
    · exact .of_done _ (by rw [dispatchCack_decoded m s hsub hm]; rfl)
    · exact .of_done _ (by rw [dispatchCack_dropped m s hsub hm]; rfl)
  · exact .of_eq (by rw [dispatchCack_unsubscribed m s (eq_false_of_ne_true hsub)]; rfl)

theorem addsOnlyDone_dispatchFack (m : Msg) (s : State) : AddsOnlyDone s (dispatchFack m s) := by
  by_cases hsub : s.subFw = true
  · by_cases hm : m.length = 20
    · exact .of_done _ (by rw [dispatchFack_decoded m s hsub hm]; rfl)
    · exact .of_done _ (by rw [dispatchFack_dropped m s hsub hm]; rfl)
  · exact .of_eq (by rw [dispatchFack_unsubscribed m s (eq_false_of_ne_true hsub)]; rfl)

/-- A payload of any length on the command-ack channel goes to the dispatcher. -/
theorem step_cmdAck (s : State) (m : Msg) (rest : List Input) (h : s.inputs = .wire .cmdAck m :: rest) :
    step s = .next (dispatchCack m s) := by
  by_cases hm : m.length = 20
  · rw [step_wire_ok s .cmdAck m rest _ h (if_neg (not_not.mpr hm)), exec, execFrameCmdAck]
    exact congrArg (fun x => Host.Outcome.next (dispatchCack x s)) (ackBytes_fields m hm)
  · exact step_cmdAck_wrongLength s m rest hm h

/-- On the firmware-ack channel likewise. -/
theorem step_sectorAck (s : State) (m : Msg) (rest : List Input) (h : s.inputs = .wire .sectorAck m :: rest) :
    step s = .next (dispatchFack m s) := by
  by_cases hm : m.length = 20
  · rw [step_wire_ok s .sectorAck m rest _ h (if_neg (not_not.mpr hm)), exec, execFrameSectorAck]
    exact congrArg (fun x => Host.Outcome.next (dispatchFack x s)) (ackBytes_fields m hm)
  · exact step_sectorAck_wrongLength s m rest hm h

/-- Settles O59: each of the three events adds no refused completion, and so leaves `ERR` and `ECODE`. -/
theorem hostMovesAreNeverRefused : Obligations.HostMovesAreNeverRefused := by
  intro s t e rest hinv hin he ht
  have hdone : AddsOnlyDone s t := by
    rcases he with rfl | ⟨m, rfl⟩ | ⟨m, rfl⟩
    · exact (hostTurn_cases s t (step_turn s rest hin ▸ ht)).addsOnlyDone hinv.jobs
    · rw [step_cmdAck s m rest hin] at ht
      cases ht
      exact addsOnlyDone_dispatchCack m s
    · rw [step_sectorAck s m rest hin] at ht
      cases ht
      exact addsOnlyDone_dispatchFack m s
  have hreset : s.inputs.head? ≠ some .reset := by
    rcases he with rfl | ⟨m, rfl⟩ | ⟨m, rfl⟩ <;> simp [hin]
  obtain ⟨herr, hecode⟩ := (step_blockChange s t ht).err_of_addsOnlyDone hreset hdone
  exact ⟨herr, hecode, hdone⟩

end Sys2Proof.Machine
end

section
/-! PROOFS. The statements about refusals and the idle block (spec/60_exceptions.md): a refusal records the first code
and changes nothing else, and with nothing at the port a step holds the state. -/

namespace Sys2Proof.Machine

/-- With `ERR` clear a refusal sets it and its code becomes `ECODE` (R172). -/
theorem recordRefusal_first (c : RefusalCode) (s : State) (h : s.stErr = false) :
    recordRefusal c s = { s with stErr := true, stEcode := refusalValue c } := by
  simp [recordRefusal, h]

/-- With `ERR` set a refusal leaves `ST` (R172). -/
theorem recordRefusal_again (c : RefusalCode) (s : State) (h : s.stErr = true) : recordRefusal c s = s := by
  rw [recordRefusal, if_pos h, ← h]

/-- Settles O4: the step of the idle block. -/
theorem idleHoldsState : Obligations.IdleHoldsState := step_idle

/-- Settles O9: `ERR` before the refusal decides whether its code is recorded; the codes' values are R173's. -/
theorem refusalRecordsFirstCode : Obligations.RefusalRecordsFirstCode := by
  intro s c
  refine ⟨fun h => ?_, fun h => ?_, rfl, rfl, rfl⟩
  · rw [refuse, recordRefusal_first c (takeInput s) h, takeInput]
  · rw [refuse, recordRefusal_again c (takeInput s) h, takeInput]

end Sys2Proof.Machine
end

section
/-! PROOFS. The statements about the reset (spec/70_reset_and_hazards.md): the reset values, what the reset event writes,
and that the state after reset meets the machine's invariant. -/

namespace Sys2Proof.Machine

/-- A reset at the port is taken and writes `ACC` and the fields of `ST`, and nothing else (R190). -/
theorem resetBlock_of_cons (s : State) (rest : List Input) (h : s.inputs = .reset :: rest) :
    resetBlock s = { s with acc := 0x0000, stEq := false, stErr := false, stEcode := 0, inputs := rest } := by
  rw [resetBlock, takeInput_of_cons s rest .reset h]

/-- Settles O1: the values are R190's, and the step of a reset event is `resetBlock`. -/
theorem resetLeavesZero : Obligations.ResetLeavesZero :=
  ⟨rfl, rfl, fun s rest h => by rw [step_reset s rest h, resetBlock_of_cons s rest h]⟩

theorem sessionLive_of_none {s : State} (h : s.session = none) : sessionLive s = false := by
  simp [sessionLive, h]

/-- A host that has opened no session has only its queue of chunks and its unit size to keep. -/
theorem HostInv.of_no_session {s : State} (hnone : s.session = none) (hjobs : jobsInv s) (hunit : unitInv s) :
    HostInv s where
  jobs := hjobs
  unit := hunit
  session := by simp [hnone]
  link := by simp [linkInv, sessionLive_of_none hnone]

/-- `ERR` and `ECODE` agree when both are clear (R25). -/
theorem statusInv_of_clear {s : State} (herr : s.stErr = false) (hecode : s.stEcode = 0) : statusInv s := by
  simp [statusInv, herr, hecode]

/-- Settles O57: `ST` is clear, no chunk is to be sent, the unit size 23 is at least 7, and there is no session. -/
theorem invariantHoldsAtReset : Obligations.InvariantHoldsAtReset := by
  have hjobs : jobsInv State.reset := List.forall_mem_nil _
  have hunit : unitInv State.reset := (one_le_maxChunkPayload_iff 23).mpr (by decide)
  exact (inv_iff State.reset).mpr ⟨statusInv_of_clear rfl rfl, .of_no_session rfl hjobs hunit⟩

end Sys2Proof.Machine
end
